-- ==== Sys2Proof/Config.lean ====
section
/-! DEFINITION. The parameters of the block (spec/00_scope.md R10, R11, R12): the constants the source fixes,
and the one size the spec leaves open, as an opaque constant that nothing can evaluate. `LATENCY` is time and is
left out (notes/assumptions 2). -/

namespace Sys2Proof

/-- `FAC_MAX` (R10): the largest facility code. -/
def Config.facMax : Nat := 255

/-- `CARD_MAX` (R10): the largest card code. -/
def Config.cardMax : Nat := 65535

/-- `HEX_DIGITS` (R10): hex digits in the hexadecimal form. -/
def Config.hexDigits : Nat := 6

/-- `BIN24_LEN` (R10): characters in the binary form without parity. -/
def Config.bin24Len : Nat := 24

/-- `BIN26_LEN` (R10): characters in the binary form with parity. -/
def Config.bin26Len : Nat := 26

/-- How far `LENW` lies above its least value 5 (R11, 92_eei_decisions.md D4: OPEN). It has no body: nothing can
be proved of its value (notes/assumptions 4). -/
opaque Config.lenwAbove : Nat

/-- `LENW` (R11): the width in bits of `txt_len`, an integer not below 5. -/
def Config.lenw : Nat := 5 + Config.lenwAbove

/-- `TEXT_MAX = 2^LENW − 1` (R11): the largest number of characters of a text at the request port. -/
def Config.textMax : Nat := 2 ^ Config.lenw - 1

end Sys2Proof
end

