-- ==== Sys2Proof/Word.lean ====
section
/-! DEFINITION. The widths of the block's vectors (spec/00_scope.md R10, R12, R14). Bit 0 of every vector is its
least significant bit; a sequence's element 0 is the vector's most significant bit (R15). -/

namespace Sys2Proof

/-- One bit: a parity bit or a mismatch flag. -/
abbrev Bit := BitVec 1

/-- A facility code, `W_FAC` = 8 bits. -/
abbrev Facility := BitVec 8

/-- A card code, `W_CARD` = 16 bits. -/
abbrev Card := BitVec 16

/-- A payload, `W_PAYLOAD` = 24 bits: facility then card (R71). -/
abbrev Payload := BitVec 24

/-- A frame, `W_FRAME` = 26 bits: even parity, facility, card, odd parity (R70). -/
abbrev Frame := BitVec 26

/-- One character code, `CHAR_W` = 8 bits (R12, R55). -/
abbrev Code := BitVec 8

/-- A text: its characters, the leftmost first (R51). -/
abbrev Text := List Code

/-- The numeric operand `arg` of a request (R34). -/
abbrev Arg := BitVec 26

/-- The instruction word `IW = op ++ arg` (R74). -/
abbrev IWord := BitVec 29

end Sys2Proof
end

