-- ==== Sys2Proof/Syntax.lean ====
section
/-! DEFINITION. The operation set (one constructor of `Instr` for each row of spec/opcode_table.json), the value
types of the source's data model (spec/10_state.md R21 to R29, R45, R46), and the two records that cross the ports
(R34, R35). -/

namespace Sys2Proof

/-- A Credential (R22): every combination of the four fields is well formed. -/
structure Credential where
  evenParity : Bit
  facility : Facility
  card : Card
  oddParity : Bit
  deriving DecidableEq, Repr

/-- A ParityPair (R25). -/
structure ParityPair where
  even : Bit
  odd : Bit
  deriving DecidableEq, Repr

/-- What `validate_parity` yields (R27). -/
structure ValidateResult where
  acceptedEven : Bit
  acceptedOdd : Bit
  evenMismatch : Bit
  oddMismatch : Bit
  deriving DecidableEq, Repr

/-- What every parser yields on success (R28): `supplied` is present for the 26-character binary form only. -/
structure ParseTriple where
  facility : Facility
  card : Card
  supplied : Option ParityPair
  deriving DecidableEq, Repr

/-- What `render` yields (R29): two fixed-length texts and the two integers. -/
structure DisplayBundle where
  binTxt : Vector Code 26
  hexTxt : Vector Code 6
  facility : Facility
  card : Card
  deriving DecidableEq, Repr

/-- The field an `OutOfRange` failure names (R45). -/
inductive Field where
  | facility
  | card
  deriving DecidableEq, Repr

/-- A failure: the source's CodecError and the spec's own `IllegalRequest` (R45, 60_exceptions.md R190 to R192). -/
inductive Failure where
  | invalidFormat
  | outOfRange (field : Field)
  | illegalRequest
  deriving DecidableEq, Repr

/-- The seven operations (30_encoding.md R76). The four text operations take their text from the request beside
the instruction word (R74), so they carry no operand here; they are the four variants of the source's InputSpec
(R46). Every operand's width is its type, so no ill-formed instruction can be written. -/
inductive Instr where
  /-- FROM_BIN24, format T, op 0 (41_bitfield_parsers.md R132). -/
  | fromBin24
  /-- FROM_BIN26, format T, op 1 (R133). -/
  | fromBin26
  /-- FROM_HEX, format T, op 2 (R135). -/
  | fromHex
  /-- FROM_DEC, format T, op 3 (R136). -/
  | fromDec
  /-- RENDER, format C, op 4 (42_credential_formatter.md R173). -/
  | render (credential : Credential)
  /-- COMPUTE_PARITY, format P, op 5 (40_parity_unit.md R115). -/
  | computeParity (payload : Payload)
  /-- VALIDATE_PARITY, format V, op 6 (R118). -/
  | validateParity (suppliedEven suppliedOdd : Bit) (expected : ParityPair)
  deriving DecidableEq, Repr

/-- A request as the port carries it (R34). `txt` lists the character array from position 0; a position it does
not list holds 0x00 (notes/assumptions 5). -/
structure Request where
  op : BitVec 3
  arg : Arg
  txtLen : Nat
  txt : List Code
  deriving DecidableEq, Repr

/-- A response as the port carries it (R35). -/
structure Response where
  status : BitVec 3
  res : BitVec 26
  warn : BitVec 2
  binTxt : Vector Code 26
  hexTxt : Vector Code 6
  deriving DecidableEq, Repr

end Sys2Proof
end

