-- ==== Sys2Proof/Decode.lean ====
section
/-! DEFINITION. The frame's packing, the decoder, the encoder and the operation table (spec/30_encoding.md R70 to
R78). Decode looks at the instruction word only, never at the text (R77). -/

namespace Sys2Proof

/-- A Credential packed into a frame (R70, R73): even ++ facility ++ card ++ odd. -/
def frameOf (k : Credential) : Frame := k.evenParity ++ k.facility ++ k.card ++ k.oddParity

/-- The Credential a frame holds (R73): bit 25, bits 24 to 17, bits 16 to 1, bit 0. -/
def credentialOf (f : Frame) : Credential where
  evenParity := f.extractLsb' 25 1
  facility := f.extractLsb' 17 8
  card := f.extractLsb' 1 16
  oddParity := f.extractLsb' 0 1

/-- `IW[28:26]` (R74). -/
def opField (w : IWord) : BitVec 3 := w.extractLsb' 26 3

/-- `IW[25:0]` (R74). -/
def argField (w : IWord) : Arg := w.extractLsb' 0 26

/-- Why a word is no operation (R78): the reserved operation code, or a must-be-zero bit that is set. -/
inductive Reject where
  | reservedOp
  | mustBeZero
  deriving DecidableEq, Repr

/-- An instruction whose must-be-zero bits are checked first (R75, R78). -/
def withZero (mbzClear : Bool) (i : Instr) : Except Reject Instr :=
  if mbzClear then .ok i else .error .mustBeZero

/-- The operands of format V (R75): `arg[3:0]` is supplied even, supplied odd, expected even, expected odd. -/
def validateOperands (a : Arg) : Instr :=
  .validateParity (a.extractLsb' 3 1) (a.extractLsb' 2 1) ⟨a.extractLsb' 1 1, a.extractLsb' 0 1⟩

/-- The instruction an operation code and its `arg` spell (R75, R76), or why they spell none (R78). -/
def decodeFields (o : BitVec 3) (a : Arg) : Except Reject Instr :=
  match o.toNat with
  | 0 => withZero (a == 0) .fromBin24
  | 1 => withZero (a == 0) .fromBin26
  | 2 => withZero (a == 0) .fromHex
  | 3 => withZero (a == 0) .fromDec
  | 4 => .ok (.render (credentialOf a))
  | 5 => withZero (a.extractLsb' 24 2 == 0) (.computeParity (a.extractLsb' 0 24))
  | 6 => withZero (a.extractLsb' 4 22 == 0) (validateOperands a)
  | _ => .error .reservedOp

/-- The decoder (R77), total over all 2^29 words. -/
def decode (w : IWord) : Except Reject Instr := decodeFields (opField w) (argField w)

/-- The operation code of an instruction (R76). -/
def opcode : Instr → BitVec 3
  | .fromBin24 => 0
  | .fromBin26 => 1
  | .fromHex => 2
  | .fromDec => 3
  | .render _ => 4
  | .computeParity _ => 5
  | .validateParity .. => 6

/-- The `arg` of an instruction (R75). -/
def operandArg : Instr → Arg
  | .fromBin24 => 0
  | .fromBin26 => 0
  | .fromHex => 0
  | .fromDec => 0
  | .render k => frameOf k
  | .computeParity p => (0#2 ++ p : BitVec 26)
  | .validateParity se so ex => (0#22 ++ (se ++ so ++ ex.even ++ ex.odd) : BitVec 26)

/-- The encoder (R74): `op ++ arg`. -/
def encode (i : Instr) : IWord := (opcode i ++ operandArg i : BitVec 29)

/-- One row of the operation table (R76). -/
structure OpRow where
  mnemonic : String
  sourceName : String
  pattern : IWord
  mask : IWord
  deriving DecidableEq, Repr

/-- A word selects the row for which `(IW AND mask) = match` (R76). -/
def selects (r : OpRow) (w : IWord) : Bool := w &&& r.mask == r.pattern

/-- The table of R76, in its order. -/
def opTable : List OpRow :=
  [⟨"FROM_BIN24", "from_binary24", 0x00000000, 0x1FFFFFFF⟩,
   ⟨"FROM_BIN26", "from_binary26_no_auto_parity", 0x04000000, 0x1FFFFFFF⟩,
   ⟨"FROM_HEX", "from_hex", 0x08000000, 0x1FFFFFFF⟩,
   ⟨"FROM_DEC", "from_decimal_pair", 0x0C000000, 0x1FFFFFFF⟩,
   ⟨"RENDER", "render", 0x10000000, 0x1C000000⟩,
   ⟨"COMPUTE_PARITY", "compute_parity", 0x14000000, 0x1F000000⟩,
   ⟨"VALIDATE_PARITY", "validate_parity", 0x18000000, 0x1FFFFFF0⟩]

/-- An instruction's mnemonic (R76). -/
def mnemonic : Instr → String
  | .fromBin24 => "FROM_BIN24"
  | .fromBin26 => "FROM_BIN26"
  | .fromHex => "FROM_HEX"
  | .fromDec => "FROM_DEC"
  | .render _ => "RENDER"
  | .computeParity _ => "COMPUTE_PARITY"
  | .validateParity .. => "VALIDATE_PARITY"

/-- The instruction the decoder reads from a table word of `nbits` bits (every bit above them is 0). The word has 29
bits (R74), so a number with a bit above bit 28 is no instruction word (notes/assumptions 8). -/
def decodeTableWord (nbits w : Nat) : Option Instr :=
  if w % 2 ^ nbits < 2 ^ 29 then
    match decode (BitVec.ofNat 29 (w % 2 ^ nbits)) with
    | .ok i => some i
    | .error _ => none
  else none

end Sys2Proof
end

