-- ==== Sys2Proof/Machine/State.lean ====
section
/-! DEFINITION. The state of the block: the transaction slot, which is all it holds (spec/10_state.md R30, R43),
and beside it the values the client drives on the input ports. -/

namespace Sys2Proof.Machine

/-- The slot `T` (R30). -/
inductive Slot where
  /-- No transaction. -/
  | empty
  /-- An accepted request whose response has not been formed. -/
  | pending (req : Request)
  /-- A response the client has not yet taken. -/
  | done (resp : Response)
  deriving DecidableEq, Repr

/-- The values on the input ports at a step (R31, R33, 70_reset_and_hazards.md R220, R231). They are the client's;
the block never changes them (notes/assumptions 1). -/
structure Inputs where
  rst : Bool
  reqValid : Bool
  req : Request
  respReady : Bool
  deriving DecidableEq, Repr

/-- The machine: the slot, which is the block's whole state, and the input ports. -/
structure State where
  slot : Slot
  inp : Inputs
  deriving DecidableEq, Repr

/-- Why the machine would stop. The block itself never traps (60_exceptions.md). -/
inductive Fault where
  /-- Raised by a meaning asked of a state whose slot is not `PENDING`: the execute step is not enabled there (R32).
  `step` never does this. Safe: it stops where the spec gives no step. -/
  | noPendingRequest
  deriving DecidableEq, Repr

/-- Why the model would give no next state. -/
inductive Refusal where
  /-- An instruction without a meaning; no arm of `exec` raises it. Safe. -/
  | notModelled (mnemonic : String)
  /-- Raised by the accept step on port values that no client can drive: a `txt_len` above `TEXT_MAX`
  (20_memory.md R52). Safe: the block gives no answer there. -/
  | textTooLong
  deriving DecidableEq, Repr

/-- A step's answer. -/
abbrev Answer := Host.Outcome State Fault Refusal

/-- Request fields all zero and no text. -/
def Request.idle : Request := ⟨0, 0, 0, []⟩

/-- Nothing driven: no reset, no request, not ready for a response (notes/assumptions 1). -/
def Inputs.idle : Inputs := ⟨false, false, Request.idle, false⟩

/-- Right after reset (R44): `T = EMPTY`. The input ports idle (notes/assumptions 1). -/
def State.reset : State := ⟨.empty, Inputs.idle⟩

/-- The state with another slot; the ports stay as the client drives them. -/
def State.withSlot (s : State) (t : Slot) : State := { s with slot := t }

/-- The state with other values driven on the input ports. -/
def State.driven (s : State) (p : Inputs) : State := { s with inp := p }

end Sys2Proof.Machine
end

