-- ==== Sys2Proof/Machine/Operands.lean ====
section
/-! DEFINITION. Operands: the instruction word and the text of a request, character classes and values, the four
text grammars, and the assembly of characters into fields (spec/30_encoding.md R74, R81 to R90). -/

namespace Sys2Proof.Machine

/-- `IW = op ++ arg` of a request (R74). -/
def requestWord (r : Request) : IWord := (r.op ++ r.arg : BitVec 29)

/-- The text of a request: its first `txt_len` characters (20_memory.md R51). Later positions are not part of it. -/
def requestText (r : Request) : Text := (List.range r.txtLen).map fun i => r.txt.getD i 0

/-- The half-open slice `t[a..b)` (00_scope.md R13). -/
def slice (t : Text) (a b : Nat) : Text := (t.drop a).take (b - a)

/-- Character `i` of a text. -/
def charAt (t : Text) (i : Nat) : Code := t.getD i 0

/-- The code of the comma (R81). -/
def comma : Code := 0x2C

/-- `is_bin` (R82). -/
def isBin (c : Code) : Bool := c == 0x30 || c == 0x31

/-- `binval` (R82): bit 0 of the code. -/
def binVal (c : Code) : Bit := c.extractLsb' 0 1

/-- `is_dec` (R82). -/
def isDec (c : Code) : Bool := decide (0x30 ≤ c.toNat) && decide (c.toNat ≤ 0x39)

/-- `decval` (R82). -/
def decVal (c : Code) : Nat := c.toNat - 0x30

/-- A code of `A` to `F` (R81). -/
def isUpperHex (c : Code) : Bool := decide (0x41 ≤ c.toNat) && decide (c.toNat ≤ 0x46)

/-- A code of `a` to `f` (R81). -/
def isLowerHex (c : Code) : Bool := decide (0x61 ≤ c.toNat) && decide (c.toNat ≤ 0x66)

/-- `is_hex` (R82): both cases, of equal value. -/
def isHex (c : Code) : Bool := isDec c || isUpperHex c || isLowerHex c

/-- `hexval` (R82). -/
def hexVal (c : Code) : BitVec 4 :=
  if isDec c then BitVec.ofNat 4 (c.toNat - 0x30)
  else if isUpperHex c then BitVec.ofNat 4 (c.toNat - 0x41 + 10)
  else BitVec.ofNat 4 (c.toNat - 0x61 + 10)

/-- `binchar` (R83). -/
def binChar (b : Bit) : Code := if b = 1 then 0x31 else 0x30

/-- `hexchar` (R83): uppercase only. -/
def hexChar (h : BitVec 4) : Code :=
  if h.toNat ≤ 9 then BitVec.ofNat 8 (0x30 + h.toNat) else BitVec.ofNat 8 (0x41 + (h.toNat - 10))

/-- The number a sequence of digit values spells, the first the most significant; exact, of no width (R53, R90). -/
def digitsNat (base : Nat) (ds : List Nat) : Nat := ds.foldl (fun acc d => acc * base + d) 0

/-- `bitsval` at width `n` (R88). -/
def bitsVal (n : Nat) (s : Text) : BitVec n :=
  BitVec.ofNat n (digitsNat 2 (s.map fun c => (binVal c).toNat))

/-- `hexpayload` (R89). -/
def hexPayload (d : Text) : Payload := BitVec.ofNat 24 (digitsNat 16 (d.map fun c => (hexVal c).toNat))

/-- `nat` (R90): exact, never reduced. -/
def decNat (g : Text) : Nat := digitsNat 10 (g.map decVal)

/-- Grammar Binary24 (R84). -/
def isBinary24 (t : Text) : Bool := t.length == Config.bin24Len && t.all isBin

/-- Grammar Binary26 (R85). -/
def isBinary26 (t : Text) : Bool := t.length == Config.bin26Len && t.all isBin

/-- The prefix `0x` or `0X` (R86). -/
def hasHexPrefix (t : Text) : Bool :=
  charAt t 0 == 0x30 && (charAt t 1 == 0x78 || charAt t 1 == 0x58)

/-- Grammar Hex (R86): the six digits of the bare form or of the prefixed form. -/
def hexDigits (t : Text) : Option Text :=
  if t.length == Config.hexDigits && t.all isHex then some t
  else if t.length == Config.hexDigits + 2 && hasHexPrefix t && (t.drop 2).all isHex then some (t.drop 2)
  else none

/-- Grammar DecimalPair (R87): the facility digits, one comma, the card digits, neither group empty. -/
def decimalGroups (t : Text) : Option (Text × Text) :=
  let f := t.takeWhile isDec
  match t.dropWhile isDec with
  | [] => none
  | sep :: c =>
    if sep == comma && !f.isEmpty && !c.isEmpty && c.all isDec then some (f, c) else none

end Sys2Proof.Machine
end

