-- ==== Sys2Proof/WellFormed.lean ====
section
/-! DEFINITION. The checks on what crosses the ports. An `Instr` needs none: each operand's width is its type. -/

namespace Sys2Proof

/-- A request the port can carry: `txt_len` is at most `TEXT_MAX` (spec/20_memory.md R51, R52). Every `LENW` the
spec allows gives `TEXT_MAX ≥ 31` (R11), so lengths to 31 are decided without the open parameter. -/
def Request.wf (r : Request) : Bool :=
  decide (r.txtLen ≤ 31) || decide (r.txtLen ≤ Config.textMax)

/-- Every code of a character array is 0x00 (R36). -/
def allZero (cs : List Code) : Bool := cs.all (· == 0)

/-- A character `RENDER` may write into `bin_txt` (42_credential_formatter.md R176). -/
def isBinOut (c : Code) : Bool := c == 0x30 || c == 0x31

/-- A character `RENDER` may write into `hex_txt`: a digit or an uppercase letter A to F (R176). -/
def isHexOut (c : Code) : Bool :=
  (decide (0x30 ≤ c.toNat) && decide (c.toNat ≤ 0x39)) || (decide (0x41 ≤ c.toNat) && decide (c.toNat ≤ 0x46))

/-- The status is one the block produces: 0 to 4 (30_encoding.md R79). -/
def Response.statusLegal (r : Response) : Bool := decide (r.status.toNat ≤ 4)

/-- A failing response holds nothing but its status (10_state.md R36, 60_exceptions.md R196). -/
def Response.failureBare (r : Response) : Bool :=
  r.status == 0 || (r.res == 0 && r.warn == 0 && allZero r.binTxt.toList && allZero r.hexTxt.toList)

/-- The two texts are both zero, or both written as `RENDER` writes them, which leaves `warn` and the two top bits
of `res` zero (R35, R36, R58, R80, R176). -/
def Response.textsLegal (r : Response) : Bool :=
  (allZero r.binTxt.toList && allZero r.hexTxt.toList) ||
    (r.binTxt.toList.all isBinOut && r.hexTxt.toList.all isHexOut && r.warn == 0 && r.res.extractLsb' 24 2 == 0)

/-- A response the block can give. -/
def Response.wf (r : Response) : Bool := r.statusLegal && r.failureBare && r.textsLegal

end Sys2Proof
end

