-- ==== Sys2Proof/Machine/Ops.lean ====
section
/-! DEFINITION. The named operations over the slot and the ports: responses, failures, the output signals, and the
block's steps (spec/10_state.md R30 to R36, 60_exceptions.md R196, 70_reset_and_hazards.md R220, R221). -/

namespace Sys2Proof.Machine

/-- Every response field zero (R33, R36). -/
def zeroResponse : Response := ⟨0, 0, 0, Vector.replicate 26 0, Vector.replicate 6 0⟩

/-- The status code of a failure (30_encoding.md R79). -/
def statusOf : Failure → BitVec 3
  | .invalidFormat => 1
  | .outOfRange .facility => 2
  | .outOfRange .card => 3
  | .illegalRequest => 4

/-- What a failing operation answers (60_exceptions.md R196): its status, every other field zero. The block has no
other exception entry and nothing to return from (R198). -/
def failureResponse (f : Failure) : Response := { zeroResponse with status := statusOf f }

/-- A successful response with a numeric result and the two warning bits; both texts zero (R35, R36). -/
def okResponse (res : BitVec 26) (warn : BitVec 2) : Response := { zeroResponse with res := res, warn := warn }

/-- `req_ready` (R31, R221): the slot is empty, and reset is not asserted (notes/assumptions 3). -/
def reqReady (s : State) : Bool := !s.inp.rst && decide (s.slot = .empty)

/-- `resp_valid` (R33, R221): the slot holds a response, and reset is not asserted (notes/assumptions 3). -/
def respValid (s : State) : Bool :=
  match s.slot with
  | .done _ => !s.inp.rst
  | _ => false

/-- The response fields as the port shows them (R33): zero while `resp_valid = 0`. -/
def respOut (s : State) : Response :=
  match s.slot with
  | .done r => if s.inp.rst then zeroResponse else r
  | _ => zeroResponse

/-- The block has no transaction to answer or to hand over (R230). -/
def quiescent (s : State) : Bool := decide (s.slot = .empty)

/-- The execute step's effect (R32): the pending request's response goes into the slot. Enabled in `PENDING` only
(notes/assumptions 6). -/
def execute (form : Request → Response) (s : State) : Answer :=
  match s.slot with
  | .pending req => .next (s.withSlot (.done (form req)))
  | _ => .fault .noPendingRequest

/-- A failure taken by the pending transaction (R196): the slot moves to `DONE` as for a success. -/
def takeFailure (f : Failure) (s : State) : Answer := execute (fun _ => failureResponse f) s

/-- The reset step (R220): `T ← EMPTY`, in any state. -/
def resetStep (s : State) : Answer := .next (s.withSlot .empty)

/-- The accept step on an empty slot (R31); without a request the block waits. A text longer than the port can
carry is no request (20_memory.md R52). -/
def acceptStep (s : State) : Answer :=
  if s.inp.reqValid then
    if s.inp.req.wf then .next (s.withSlot (.pending s.inp.req)) else .refused .textTooLong
  else .next s

/-- The deliver step on a slot that holds a response (R33); until the client is ready the block waits with the
response in place (R225). -/
def deliverStep (s : State) : Answer :=
  if s.inp.respReady then .next (s.withSlot .empty) else .next s

/-- The request the client hands over at this step, if any: both handshake signals are 1 (R31). -/
def acceptedNow (s : State) : Option Request :=
  if reqReady s && s.inp.reqValid && s.inp.req.wf then some s.inp.req else none

/-- The response the client takes at this step, if any: both handshake signals are 1 (R33). -/
def deliveredNow (s : State) : Option Response :=
  if respValid s && s.inp.respReady then some (respOut s) else none

end Sys2Proof.Machine
end

