-- ==== Sys2Proof/Machine/Formatter.lean ====
section
/-! DEFINITION. The formatter (spec/42_credential_formatter.md): `render` checks nothing and never fails (R174). -/

namespace Sys2Proof.Machine

/-- The binary string (R170): `bin_txt[i] = binchar(frame[25−i])`, all 26 positions. -/
def binString (f : Frame) : Vector Code 26 := Vector.ofFn fun i => binChar (f.extractLsb' (25 - i.val) 1)

/-- The hexadecimal string (R171): `hex_txt[i] = hexchar(payload[23−4i : 20−4i])`, all 6 positions. -/
def hexString (p : Payload) : Vector Code 6 := Vector.ofFn fun i => hexChar (p.extractLsb' (20 - 4 * i.val) 4)

/-- `render` (R170 to R172, R174). -/
def renderBundle (k : Credential) : DisplayBundle where
  binTxt := binString (frameOf k)
  hexTxt := hexString (k.facility ++ k.card : BitVec 24)
  facility := k.facility
  card := k.card

/-- The response of `RENDER` (R173): the two texts, and the two integers in `res[23:16]` and `res[15:0]`. -/
def renderResponse (k : Credential) : Response :=
  let d := renderBundle k
  { zeroResponse with
    res := (0#2 ++ (d.facility ++ d.card) : BitVec 26)
    binTxt := d.binTxt
    hexTxt := d.hexTxt }

/-- RENDER (R173). -/
def execRender (k : Credential) (s : State) : Answer := execute (fun _ => renderResponse k) s

end Sys2Proof.Machine
end

