-- ==== Sys2Proof/Machine/Flags.lean ====
section
/-! DEFINITION. The parity engine's two functions: the two parity bits and the two mismatch flags
(spec/40_parity_unit.md R110 to R112, R116). The formulas are the source's as written (90_conflicts.md C2, C3, C7). -/

namespace Sys2Proof.Machine

/-- How many of the bits below bit `k` of a vector are 1. -/
def onesBelow {n : Nat} (v : BitVec n) : Nat → Nat
  | 0 => 0
  | k + 1 => onesBelow v k + (v.getLsbD k).toNat

/-- `popcount` (00_scope.md R16). -/
def popcount {n : Nat} (v : BitVec n) : Nat := onesBelow v n

/-- The first parity group, `payload[23:12]` (30_encoding.md R72). -/
def firstGroup (p : Payload) : BitVec 12 := p.extractLsb' 12 12

/-- The second parity group, `payload[11:0]` (R72). -/
def secondGroup (p : Payload) : BitVec 12 := p.extractLsb' 0 12

/-- The even parity bit (R110): 1 when the first group's count is odd. -/
def evenBit (p : Payload) : Bit := BitVec.ofNat 1 (popcount (firstGroup p) % 2)

/-- The odd parity bit (R111): 1 when the second group's count is even. -/
def oddBit (p : Payload) : Bit := BitVec.ofNat 1 (1 - popcount (secondGroup p) % 2)

/-- `compute_parity` (R112). -/
def computeParity (p : Payload) : ParityPair := ⟨evenBit p, oddBit p⟩

/-- A mismatch flag (R116): 1 when the supplied bit differs from the expected bit. -/
def mismatch (supplied expected : Bit) : Bit := if supplied = expected then 0 else 1

/-- The accepted bit of one side (R116): the expected bit where the two differ. -/
def accepted (supplied expected : Bit) : Bit := if mismatch supplied expected = 1 then expected else supplied

/-- `validate_parity` (R116), each side on its own. -/
def validateParity (suppliedEven suppliedOdd : Bit) (expected : ParityPair) : ValidateResult where
  acceptedEven := accepted suppliedEven expected.even
  acceptedOdd := accepted suppliedOdd expected.odd
  evenMismatch := mismatch suppliedEven expected.even
  oddMismatch := mismatch suppliedOdd expected.odd

end Sys2Proof.Machine
end

