-- ==== Sys2Proof/Machine/Parity.lean ====
section
/-! DEFINITION. The parity engine's two operations (spec/40_parity_unit.md R115, R118). -/

namespace Sys2Proof.Machine

/-- The response of `COMPUTE_PARITY` (R115): `res[1]` even, `res[0]` odd. -/
def computeParityResponse (p : Payload) : Response :=
  let pair := computeParity p
  okResponse (0#24 ++ (pair.even ++ pair.odd) : BitVec 26) 0

/-- The response of `VALIDATE_PARITY` (R118): accepted even, accepted odd, even mismatch, odd mismatch in `res[3:0]`;
`warn` is zero. -/
def validateParityResponse (suppliedEven suppliedOdd : Bit) (expected : ParityPair) : Response :=
  let v := validateParity suppliedEven suppliedOdd expected
  okResponse (0#22 ++ (v.acceptedEven ++ v.acceptedOdd ++ v.evenMismatch ++ v.oddMismatch) : BitVec 26) 0

/-- COMPUTE_PARITY (R115). -/
def execComputeParity (p : Payload) (s : State) : Answer := execute (fun _ => computeParityResponse p) s

/-- VALIDATE_PARITY (R118). -/
def execValidateParity (suppliedEven suppliedOdd : Bit) (expected : ParityPair) (s : State) : Answer :=
  execute (fun _ => validateParityResponse suppliedEven suppliedOdd expected) s

end Sys2Proof.Machine
end

