-- ==== Sys2Proof/Machine/Parsers.lean ====
section
/-! DEFINITION. The parsers (spec/41_bitfield_parsers.md): each checks its whole text against its grammar, then
converts, then checks ranges (R138), and yields a triple or exactly one failure (R130). -/

namespace Sys2Proof.Machine

/-- FROM_BIN24's parser (R132). -/
def parseBin24 (t : Text) : Except Failure ParseTriple :=
  if isBinary24 t then .ok ⟨bitsVal 8 (slice t 0 8), bitsVal 16 (slice t 8 24), none⟩
  else .error .invalidFormat

/-- FROM_BIN26's parser (R133): the two end characters are the supplied parity bits. -/
def parseBin26 (t : Text) : Except Failure ParseTriple :=
  if isBinary26 t then
    .ok ⟨bitsVal 8 (slice t 1 9), bitsVal 16 (slice t 9 25), some ⟨binVal (charAt t 0), binVal (charAt t 25)⟩⟩
  else .error .invalidFormat

/-- FROM_HEX's parser (R135). -/
def parseHex (t : Text) : Except Failure ParseTriple :=
  match hexDigits t with
  | some d => .ok ⟨(hexPayload d).extractLsb' 16 8, (hexPayload d).extractLsb' 0 16, none⟩
  | none => .error .invalidFormat

/-- FROM_DEC's parser (R136): the facility is checked before the card, each on its exact value (R90). -/
def parseDec (t : Text) : Except Failure ParseTriple :=
  match decimalGroups t with
  | some (f, c) =>
    if decNat f > Config.facMax then .error (.outOfRange .facility)
    else if decNat c > Config.cardMax then .error (.outOfRange .card)
    else .ok ⟨BitVec.ofNat 8 (decNat f), BitVec.ofNat 16 (decNat c), none⟩
  | none => .error .invalidFormat

/-- From triple to Credential and warnings: parity is computed where none was supplied (R131), and checked against
the computed pair where it was (R133). -/
def buildCredential (tr : ParseTriple) : Credential × BitVec 2 :=
  let expected := computeParity (tr.facility ++ tr.card : BitVec 24)
  match tr.supplied with
  | none => (⟨expected.even, tr.facility, tr.card, expected.odd⟩, 0)
  | some sp =>
    let v := validateParity sp.even sp.odd expected
    (⟨v.acceptedEven, tr.facility, tr.card, v.acceptedOdd⟩, (v.evenMismatch ++ v.oddMismatch : BitVec 2))

/-- A parser's outcome as a response (R130, 30_encoding.md R80): the Credential's frame and the warnings, or the
failure's status alone. -/
def parserResponse : Except Failure ParseTriple → Response
  | .ok tr => okResponse (frameOf (buildCredential tr).1) (buildCredential tr).2
  | .error f => failureResponse f

/-- FROM_BIN24 (R132). -/
def execFromBin24 (s : State) : Answer := execute (fun req => parserResponse (parseBin24 (requestText req))) s

/-- FROM_BIN26 (R133). -/
def execFromBin26 (s : State) : Answer := execute (fun req => parserResponse (parseBin26 (requestText req))) s

/-- FROM_HEX (R135). -/
def execFromHex (s : State) : Answer := execute (fun req => parserResponse (parseHex (requestText req))) s

/-- FROM_DEC (R136). -/
def execFromDec (s : State) : Answer := execute (fun req => parserResponse (parseDec (requestText req))) s

end Sys2Proof.Machine
end

