-- ==== Sys2Proof/Machine/Dispatch.lean ====
section
/-! DEFINITION. One arm per operation (spec/30_encoding.md R76, R77). -/

namespace Sys2Proof.Machine

def exec (i : Instr) (s : State) : Host.Outcome State Fault Refusal :=
  match i with
  | .fromBin24 => Sys2Proof.Machine.execFromBin24 s
  | .fromBin26 => Sys2Proof.Machine.execFromBin26 s
  | .fromHex => Sys2Proof.Machine.execFromHex s
  | .fromDec => Sys2Proof.Machine.execFromDec s
  | .render k => Sys2Proof.Machine.execRender k s
  | .computeParity p => Sys2Proof.Machine.execComputeParity p s
  | .validateParity se so ex => Sys2Proof.Machine.execValidateParity se so ex s

end Sys2Proof.Machine
end

