-- ==== Sys2Proof/Machine/Step.lean ====
section
/-! DEFINITION. One step of the machine: reset, accept, execute, deliver, or a wait
(spec/10_state.md R31 to R33, 70_reset_and_hazards.md R220, R229). -/

namespace Sys2Proof.Machine

/-- The execute step (R32, 30_encoding.md R77): a word that is an operation runs it; any other word is answered
`ILLEGAL_REQUEST` (R78). -/
def executeStep (req : Request) (s : State) : Answer :=
  match decode (requestWord req) with
  | .ok i => exec i s
  | .error _ => takeFailure .illegalRequest s

/-- One step. Reset wins over everything (R220, R221; notes/assumptions 3). -/
def step (s : State) : Host.Outcome State Fault Refusal :=
  if s.inp.rst then resetStep s
  else
    match s.slot with
    | .empty => acceptStep s
    | .pending req => executeStep req s
    | .done _ => deliverStep s

/-- The request whose text a placed word goes with: the pending one, or the one at the port. -/
def textSource (s : State) : Request :=
  match s.slot with
  | .pending r => r
  | _ => s.inp.req

/-- The state whose very next step executes the word: it is the pending request's instruction word, beside the text
that is pending or at the port, and reset is not asserted (notes/assumptions 7). -/
def State.withFetchWord (s : State) (nbits w : Nat) : State :=
  let iw : IWord := BitVec.ofNat 29 (w % 2 ^ nbits)
  { s with
    slot := .pending { textSource s with op := opField iw, arg := argField iw }
    inp := { s.inp with rst := false } }

end Sys2Proof.Machine
end

