-- ==== Sys2Proof/Machine/Client.lean ====
section
/-! DEFINITION. The client's side: the response a request gets, assembly lines and the pseudo-instruction
`CONVERT.<FORM>` (spec/30_encoding.md R93, R94), and a run of the block under a client that drives the ports
(spec/70_reset_and_hazards.md R225, R231). -/

namespace Sys2Proof.Machine

/-- The response an operation forms from the text of its request; the three numeric operations ignore it (R34). -/
def respond (i : Instr) (t : Text) : Response :=
  match i with
  | .fromBin24 => parserResponse (parseBin24 t)
  | .fromBin26 => parserResponse (parseBin26 t)
  | .fromHex => parserResponse (parseHex t)
  | .fromDec => parserResponse (parseDec t)
  | .render k => renderResponse k
  | .computeParity p => computeParityResponse p
  | .validateParity se so ex => validateParityResponse se so ex

/-- The spec's `exec : Request → Response` (00_scope.md R17, 30_encoding.md R77): total. -/
def answer (req : Request) : Response :=
  match decode (requestWord req) with
  | .ok i => respond i (requestText req)
  | .error _ => failureResponse .illegalRequest

/-- The request an assembly line stands for (R93): the instruction's `op` and `arg`, and the quoted text, whose
length is `txt_len`. -/
def assemble (i : Instr) (text : Text) : Request where
  op := opcode i
  arg := operandArg i
  txtLen := text.length
  txt := text

/-- The four forms of `CONVERT` (R94). -/
inductive Form where
  | bin24
  | bin26
  | hex
  | dec
  deriving DecidableEq, Repr

/-- The `FROM_<FORM>` operation of a form (R94). -/
def formInstr : Form → Instr
  | .bin24 => .fromBin24
  | .bin26 => .fromBin26
  | .hex => .fromHex
  | .dec => .fromDec

/-- The second transaction of `CONVERT` (R94): `RENDER` of the first response's `res`, only on `OK`. -/
def convertSecond (first : Response) : Option Request :=
  if first.status = 0 then some (assemble (.render (credentialOf first.res)) []) else none

/-- The transactions `CONVERT.<FORM> "<text>"` expands to, in order (R94). -/
def convert (form : Form) (text : Text) : List Request :=
  assemble (formInstr form) text :: (convertSecond (answer (assemble (formInstr form) text))).toList

/-- What a run leaves: the state, the requests accepted and the responses delivered, each in order. -/
structure Transcript where
  final : State
  accepted : List Request
  delivered : List Response
  deriving DecidableEq, Repr

/-- The block under a client that drives the given port values, one for each step (R231). A run ends early only
where the client drives what no port can carry. -/
def runClient (s : State) : List Inputs → Transcript
  | [] => ⟨s, [], []⟩
  | p :: ps =>
    match step (s.driven p) with
    | .next s' =>
      let rest := runClient s' ps
      ⟨rest.final, (acceptedNow (s.driven p)).toList ++ rest.accepted,
        (deliveredNow (s.driven p)).toList ++ rest.delivered⟩
    | _ => ⟨s.driven p, [], []⟩

/-- The responses still owed: that of a pending request, or the one waiting to be taken (R30). -/
def owed (s : State) : List Response :=
  match s.slot with
  | .empty => []
  | .pending req => [answer req]
  | .done resp => [resp]

end Sys2Proof.Machine
end

