-- ==== Sys2Proof/Machine/Assembler.lean ====
section
/-! DEFINITION. The assembly line (spec/30_encoding.md R93): mnemonic or alias, then the operand, read into the request
it stands for; and the line of the pseudo-instruction `CONVERT.<FORM>` (R94). It is the client's notation; the block
never sees it. The spacing and the forms of a number are notes/assumptions 9. -/

namespace Sys2Proof.Machine

/-- The codes of an ASCII name. -/
def nameCodes (s : String) : Text := s.toList.map fun c => BitVec.ofNat 8 c.toNat

/-- The space. -/
def spaceCode : Code := 0x20

/-- The quotation mark. -/
def quoteCode : Code := 0x22

/-- The line's first word. -/
def lineName (line : Text) : Text := line.takeWhile (· != spaceCode)

/-- What follows the first word and the spaces after it. -/
def lineOperand (line : Text) : Text := (line.dropWhile (· != spaceCode)).dropWhile (· == spaceCode)

/-- The characters between the quotation marks, which are not part of the text (R93). -/
def quotedText (t : Text) : Option Text :=
  match t with
  | q :: rest =>
    if q == quoteCode && rest.getLast? == some quoteCode then some rest.dropLast else none
  | [] => none

/-- A digit group of a base, each digit passing the class, none missing. -/
def digitGroup (base : Nat) (cls : Code → Bool) (t : Text) : Option Nat :=
  if !t.isEmpty && t.all cls then some (digitsNat base (t.map fun c => (hexVal c).toNat)) else none

/-- A sized binary literal `N'b...` (00_scope.md R14): `N` binary digits after the mark. -/
def sizedBinary (t : Text) : Option Nat :=
  match t.dropWhile isDec with
  | mark :: b :: bits =>
    if mark == 0x27 && b == 0x62 && digitGroup 10 isDec (t.takeWhile isDec) == some bits.length then
      digitGroup 2 isBin bits
    else none
  | _ => none

/-- A literal (R14): `0x` and hex digits, a sized binary, or a plain decimal. -/
def literal (t : Text) : Option Nat :=
  if t.take 2 == nameCodes "0x" then digitGroup 16 isHex (t.drop 2)
  else if t.contains 0x27 then sizedBinary t
  else digitGroup 10 isDec t

/-- A literal below a bound. -/
def literalBelow (bound : Nat) (t : Text) : Option Nat := (literal t).filter fun n => decide (n < bound)

/-- The members of a list separated by commas, each without the spaces before it. -/
def members (t : Text) : List Text := (t.splitOn comma).map fun m => m.dropWhile (· == spaceCode)

/-- The Credential of `RENDER`'s operand (R93): a frame as a number, or the four fields between braces. -/
def credentialOperand (t : Text) : Option Credential :=
  if t.head? == some 0x7B && t.getLast? == some 0x7D then
    match members (t.drop 1).dropLast with
    | [e, fc, cc, o] => do
      let e ← literalBelow 2 e
      let fc ← literalBelow 256 fc
      let cc ← literalBelow 65536 cc
      let o ← literalBelow 2 o
      some ⟨BitVec.ofNat 1 e, BitVec.ofNat 8 fc, BitVec.ofNat 16 cc, BitVec.ofNat 1 o⟩
    | _ => none
  else (literalBelow (2 ^ 26) t).map fun n => credentialOf (BitVec.ofNat 26 n)

/-- The four bits of `VALIDATE_PARITY`'s operand (R93). -/
def validateOperand (t : Text) : Option Instr :=
  match members t with
  | [se, so, ee, eo] => do
    let se ← literalBelow 2 se
    let so ← literalBelow 2 so
    let ee ← literalBelow 2 ee
    let eo ← literalBelow 2 eo
    some (.validateParity (BitVec.ofNat 1 se) (BitVec.ofNat 1 so) ⟨BitVec.ofNat 1 ee, BitVec.ofNat 1 eo⟩)
  | _ => none

/-- The line's first word names this row: by its mnemonic, or by the source's function name (R76, R93). -/
def namesRow (r : OpRow) (t : Text) : Bool := t == nameCodes r.mnemonic || t == nameCodes r.sourceName

/-- The operation code a line's first word names. -/
def namedOp (t : Text) : Option Nat := opTable.findIdx? fun r => namesRow r t

/-- The request of an assembly line (R93). -/
def assembleLine (line : Text) : Option Request :=
  match namedOp (lineName line) with
  | some 0 => (quotedText (lineOperand line)).map (assemble .fromBin24)
  | some 1 => (quotedText (lineOperand line)).map (assemble .fromBin26)
  | some 2 => (quotedText (lineOperand line)).map (assemble .fromHex)
  | some 3 => (quotedText (lineOperand line)).map (assemble .fromDec)
  | some 4 => (credentialOperand (lineOperand line)).map fun k => assemble (.render k) []
  | some 5 => (literalBelow (2 ^ 24) (lineOperand line)).map fun n => assemble (.computeParity (BitVec.ofNat 24 n)) []
  | some 6 => (validateOperand (lineOperand line)).map fun i => assemble i []
  | _ => none

/-- The form a `CONVERT` mnemonic names (R94). -/
def convertForm (t : Text) : Option Form :=
  if t == nameCodes "CONVERT.BIN24" then some .bin24
  else if t == nameCodes "CONVERT.BIN26" then some .bin26
  else if t == nameCodes "CONVERT.HEX" then some .hex
  else if t == nameCodes "CONVERT.DEC" then some .dec
  else none

/-- The transactions of a line: those of `CONVERT` (R94), or the one request of an operation (R93). -/
def expandLine (line : Text) : Option (List Request) :=
  match convertForm (lineName line) with
  | some form => (quotedText (lineOperand line)).map (convert form)
  | none => (assembleLine line).map fun r => [r]

end Sys2Proof.Machine
end

