-- ==== Sys2Proof/Safety.lean ====
section
/-! DEFINITION. The terms statements are made in: the invariant of the slot, and the spec's grammars, counts and
response shapes said by positions, as spec/30_encoding.md R84 to R90 and spec/40_parity_unit.md R110, R111 say them
(the model's functions compute them in another way). -/

namespace Sys2Proof.Machine

/-- What the slot may hold: a request the port can carry (20_memory.md R52), or a response the block can give
(30_encoding.md R79, 10_state.md R36). -/
def Slot.good : Slot → Prop
  | .empty => True
  | .pending req => req.wf = true
  | .done resp => resp.wf = true

/-- The machine's invariant. It says nothing of the input ports: they are the client's. -/
def State.Inv (s : State) : Prop := s.slot.good

/-- How many of the `len` bits `v[lo]`, `v[lo+1]`, ... are 1. -/
def onesIn {n : Nat} (v : BitVec n) (lo len : Nat) : Nat := (List.range len).countP fun i => v.getLsbD (lo + i)

/-- The exclusive-or of the `len` bits `v[lo]`, `v[lo+1]`, ... -/
def xorOf {n : Nat} (v : BitVec n) (lo : Nat) : Nat → Bool
  | 0 => false
  | k + 1 => xor (xorOf v lo k) (v.getLsbD (lo + k))

/-- The two parity bits of a payload (R110, R111): even is 1 when bits 23 to 12 hold an odd count of 1s, odd is 1
when bits 11 to 0 hold an even count. -/
def ParityOf (p : Payload) (even odd : Bit) : Prop :=
  (even = 1 ↔ onesIn p 12 12 % 2 = 1) ∧ (odd = 1 ↔ onesIn p 0 12 % 2 = 0)

/-- The Credential's parity bits are those of its facility and card. -/
def ParityHeld (k : Credential) : Prop :=
  ParityOf (k.facility ++ k.card : BitVec 24) k.evenParity k.oddParity

/-- Both texts of a response are 0x00 throughout (10_state.md R36). -/
def TextsZero (r : Response) : Prop :=
  (∀ i (h : i < 26), r.binTxt[i] = 0) ∧ (∀ i (h : i < 6), r.hexTxt[i] = 0)

/-- A response that holds a status and nothing else (60_exceptions.md R196). -/
def BareStatus (r : Response) (code : BitVec 3) : Prop :=
  r.status = code ∧ r.res = 0 ∧ r.warn = 0 ∧ TextsZero r

/-- A successful `FROM_*` response (30_encoding.md R80): the Credential as a frame in `res`, the given warnings. -/
def CredentialAnswered (r : Response) (k : Credential) (warn : BitVec 2) : Prop :=
  r.status = 0 ∧ r.res.extractLsb' 25 1 = k.evenParity ∧ r.res.extractLsb' 17 8 = k.facility ∧
    r.res.extractLsb' 1 16 = k.card ∧ r.res.extractLsb' 0 1 = k.oddParity ∧ r.warn = warn ∧ TextsZero r

/-- The bits of `v` from its most significant down are the binary digits `t[a]`, `t[a+1]`, ... (R88). -/
def BitsSpelled {n : Nat} (v : BitVec n) (t : Text) (a : Nat) : Prop :=
  ∀ i, i < n → v.getLsbD (n - 1 - i) = decide (charAt t (a + i) = 0x31)

/-- The six nibbles of `p` from its most significant down are the hex digits `t[a]`, ..., `t[a+5]` (R89). -/
def NibblesSpelled (p : Payload) (t : Text) (a : Nat) : Prop :=
  ∀ i, i < 6 → p.extractLsb' (20 - 4 * i) 4 = hexVal (charAt t (a + i))

/-- The number the `m` decimal digits `t[a]`, ... spell (R90). -/
def decimalSum (t : Text) (a m : Nat) : Nat :=
  ((List.range m).map fun i => decVal (charAt t (a + i)) * 10 ^ (m - 1 - i)).sum

/-- Grammar Binary24 (R84). -/
def Binary24 (t : Text) : Prop := t.length = 24 ∧ ∀ i, i < 24 → isBin (charAt t i) = true

/-- Grammar Binary26 (R85). -/
def Binary26 (t : Text) : Prop := t.length = 26 ∧ ∀ i, i < 26 → isBin (charAt t i) = true

/-- Grammar Hex (R86) with its digits from position `a`: the bare form, or the prefixed form. -/
def HexFrom (t : Text) (a : Nat) : Prop :=
  (a = 0 ∧ t.length = 6 ∧ ∀ i, i < 6 → isHex (charAt t i) = true) ∨
    (a = 2 ∧ t.length = 8 ∧ charAt t 0 = 0x30 ∧ (charAt t 1 = 0x78 ∨ charAt t 1 = 0x58) ∧
      ∀ i, 2 ≤ i → i < 8 → isHex (charAt t i) = true)

/-- Grammar DecimalPair (R87) with its comma at position `k`. -/
def DecimalAt (t : Text) (k : Nat) : Prop :=
  1 ≤ k ∧ k + 2 ≤ t.length ∧ charAt t k = 0x2C ∧
    ∀ i, i < t.length → i ≠ k → isDec (charAt t i) = true

/-- The facility number of a decimal pair with its comma at `k`. -/
def facilityNumber (t : Text) (k : Nat) : Nat := decimalSum t 0 k

/-- The card number of a decimal pair with its comma at `k`. -/
def cardNumber (t : Text) (k : Nat) : Nat := decimalSum t (k + 1) (t.length - 1 - k)

/-- The text of the decimal pair spells the facility and the card of a Credential, with any leading zeros. -/
def DecimalSpells (t : Text) (facility : Facility) (card : Card) : Prop :=
  ∃ k, DecimalAt t k ∧ facilityNumber t k = facility.toNat ∧ cardNumber t k = card.toNat

/-- The text matches the grammar of the operation, for the four that take one. -/
def TextMatches : Instr → Text → Prop
  | .fromBin24, t => Binary24 t
  | .fromBin26, t => Binary26 t
  | .fromHex, t => ∃ a, HexFrom t a
  | .fromDec, t => ∃ k, DecimalAt t k
  | _, _ => True

/-- The four operations that take a text (format T). -/
def TakesText (i : Instr) : Prop := i = .fromBin24 ∨ i = .fromBin26 ∨ i = .fromHex ∨ i = .fromDec

/-- The number the digits of `t` spell in a base: each digit's value times the base to the number of digits after it. -/
def placeSum (base : Nat) (value : Code → Nat) (t : Text) : Nat :=
  ((List.range t.length).map fun i => value (charAt t i) * base ^ (t.length - 1 - i)).sum

/-- `t` is a number in a base: digits of the class, at least one, that spell `n`. -/
def DigitsSpell (base : Nat) (cls : Code → Bool) (value : Code → Nat) (t : Text) (n : Nat) : Prop :=
  1 ≤ t.length ∧ (∀ i, i < t.length → cls (charAt t i) = true) ∧ placeSum base value t = n

/-- `t` is a literal of value `n` (00_scope.md R14): a plain decimal; `0x` and hex digits; or `N'b` and `N` binary
digits. -/
def LiteralSpells (t : Text) (n : Nat) : Prop :=
  DigitsSpell 10 isDec decVal t n ∨
  (∃ d, t = [0x30, 0x78] ++ d ∧ DigitsSpell 16 isHex (fun c => (hexVal c).toNat) d n) ∨
  (∃ w d, t = w ++ [0x27, 0x62] ++ d ∧ DigitsSpell 10 isDec decVal w d.length ∧
    DigitsSpell 2 isBin (fun c => (binVal c).toNat) d n)

/-- Four operands as a line writes them, with a comma and a space between (R93). -/
def fourMembers (a b c d : Text) : Text := a ++ [0x2C, 0x20] ++ b ++ [0x2C, 0x20] ++ c ++ [0x2C, 0x20] ++ d

/-- The execute step on the pending request gives this response and touches nothing else. -/
def Executes (i : Instr) (s : State) (r : Response) : Prop := exec i s = .next (s.withSlot (.done r))

end Sys2Proof.Machine
end

