-- ==== Sys2Proof/Certificates/Slice0/Obligations.lean ====
section
/-! DEFINITION. The statements for the provers. Each is a Prop; none is proved here. -/

open Sys2Proof Sys2Proof.Machine

/-! ### Encoding -/

/-- Decode and encode agree: every instruction, with every operand value, is read back from its own word
(30_encoding.md R74 to R76). -/
def Obligations.DecodeOfEncode : Prop := ∀ i : Instr, decode (encode i) = .ok i

/-- No two words are the same instruction: a word that decodes is the encoding of what it decodes to. -/
def Obligations.EncodeOfDecode : Prop := ∀ (w : IWord) (i : Instr), decode w = .ok i → encode i = w

/-- Which words are no operation (R78), and what the execute step answers to a request with such a word: status 4,
every other response field zero, whatever its text. -/
def Obligations.ReservedWordsAreIllegal : Prop :=
  (∀ w : IWord, (∃ e, decode w = .error e) ↔
    opField w = 7 ∨ ((opField w).toNat ≤ 3 ∧ argField w ≠ 0) ∨
      (opField w = 5 ∧ (argField w).extractLsb' 24 2 ≠ 0) ∨ (opField w = 6 ∧ (argField w).extractLsb' 4 22 ≠ 0)) ∧
  (∀ (s : State) (req : Request) (e : Reject), s.slot = .pending req → s.inp.rst = false →
    decode (requestWord req) = .error e →
    ∃ r, step s = .next (s.withSlot (.done r)) ∧ BareStatus r 4)

/-- The decoder selects rows as R76's table does: a word decodes to an instruction of a row exactly when
`(IW AND mask) = match` for that row, and no word selects two rows. -/
def Obligations.DecodeFollowsTable : Prop :=
  (∀ (w : IWord) (row : OpRow), row ∈ opTable →
    (w &&& row.mask = row.pattern ↔ ∃ i, decode w = .ok i ∧ mnemonic i = row.mnemonic)) ∧
  (∀ (w : IWord) (a b : OpRow), a ∈ opTable → b ∈ opTable →
    w &&& a.mask = a.pattern → w &&& b.mask = b.pattern → a = b)

/-- Words written out from R75 and 95_test_vectors.md decode to the instructions they stand for. -/
def Obligations.WrittenWordsDecode : Prop :=
  decode 0x00000000#29 = .ok .fromBin24 ∧ decode 0x04000000#29 = .ok .fromBin26 ∧
  decode 0x08000000#29 = .ok .fromHex ∧ decode 0x0C000000#29 = .ok .fromDec ∧
  decode 0x12020004#29 = .ok (.render ⟨1, 1, 2, 0⟩) ∧ decode 0x14010002#29 = .ok (.computeParity 0x010002) ∧
  decode 0x18000002#29 = .ok (.validateParity 0 0 ⟨1, 0⟩)

/-- Credential and frame are the same information (R73): the fields stand at their bits, and the map is a
bijection. -/
def Obligations.FrameIsCredential : Prop :=
  (∀ k : Credential, credentialOf (frameOf k) = k) ∧ (∀ f : Frame, frameOf (credentialOf f) = f) ∧
  (∀ k : Credential, frameOf k = (k.evenParity ++ k.facility ++ k.card ++ k.oddParity : BitVec 26)) ∧
  (∀ f : Frame, (credentialOf f).evenParity = f.extractLsb 25 25 ∧ (credentialOf f).facility = f.extractLsb 24 17 ∧
    (credentialOf f).card = f.extractLsb 16 1 ∧ (credentialOf f).oddParity = f.extractLsb 0 0)

/-! ### The machine's steps -/

/-- A step runs the decoded instruction: with reset low and a pending request whose word decodes, `step` is `exec`
of that instruction at that state, and nothing is added around it (10_state.md R32, 30_encoding.md R77). -/
def Obligations.StepRunsDecoded : Prop :=
  ∀ (s : State) (req : Request) (i : Instr), s.slot = .pending req → s.inp.rst = false →
    decode (requestWord req) = .ok i → step s = exec i s

/-- After reset, `rst` low (10_state.md R44): the slot is empty, `req_ready = 1`, `resp_valid = 0`, every response field
zero, whatever the client drives on the other ports. -/
def Obligations.ResetState : Prop :=
  ∀ p : Inputs, p.rst = false →
    State.reset.slot = .empty ∧ reqReady (State.reset.driven p) = true ∧ respValid (State.reset.driven p) = false ∧
      BareStatus (respOut (State.reset.driven p)) 0

/-- The reset step (70_reset_and_hazards.md R220, R221): in any state, and whatever else the client drives, it
empties the slot and changes nothing else; while `rst = 1` both ready and valid are 0. -/
def Obligations.ResetEmptiesSlot : Prop :=
  ∀ s : State, s.inp.rst = true →
    step s = .next (s.withSlot .empty) ∧ reqReady s = false ∧ respValid s = false

/-- The accept step (10_state.md R31): with reset low, `req_ready` is 1 exactly on the empty slot; a request the
port can carry goes from the port into the slot as the port shows it at that step; and without one the block waits. -/
def Obligations.AcceptTakesPortRequest : Prop :=
  ∀ s : State, s.inp.rst = false →
    (reqReady s = true ↔ s.slot = .empty) ∧
    (s.slot = .empty → s.inp.reqValid = true → s.inp.req.wf = true →
      step s = .next (s.withSlot (.pending s.inp.req))) ∧
    (s.slot = .empty → s.inp.reqValid = false → step s = .next s)

/-- A request presented while the slot is not empty has no effect (R31): the next slot is the same whatever the
request port shows. -/
def Obligations.BusyBlockIgnoresRequestPort : Prop :=
  ∀ (s : State) (p q : Inputs), s.slot ≠ .empty → p.rst = q.rst → p.respReady = q.respReady →
    ∃ t, step (s.driven p) = .next ((s.driven p).withSlot t) ∧ step (s.driven q) = .next ((s.driven q).withSlot t)

/-- The deliver step (10_state.md R33, 70_reset_and_hazards.md R225): with reset low, `resp_valid` is 1 exactly when
the slot holds a response; then the port shows it, a ready client takes it and the slot empties, and for a client
that is not ready it stays. In every state with `resp_valid = 0` every response field is zero. -/
def Obligations.DeliverHandsOverResponse : Prop :=
  ∀ s : State,
    (s.inp.rst = false → (respValid s = true ↔ ∃ r, s.slot = .done r)) ∧
    (∀ r, s.inp.rst = false → s.slot = .done r → respOut s = r ∧
      (s.inp.respReady = true → step s = .next (s.withSlot .empty)) ∧
      (s.inp.respReady = false → step s = .next s)) ∧
    (respValid s = false → BareStatus (respOut s) 0)

/-- The execute step is always enabled in `PENDING` (R32): with reset low one step answers, with the response that is
the function of the request alone (00_scope.md R17, 30_encoding.md R77). -/
def Obligations.PendingIsAnswered : Prop :=
  ∀ (s : State) (req : Request), s.slot = .pending req → s.inp.rst = false →
    step s = .next (s.withSlot (.done (answer req)))

/-- What a port cannot carry is not accepted (20_memory.md R52): a `txt_len` above `TEXT_MAX` is refused by name, and
a request is well formed exactly when its `txt_len` is at most `TEXT_MAX`. The refusal is the model's own
(notes/assumptions 4). -/
def Obligations.OverlongTextRefused : Prop :=
  31 ≤ Config.textMax ∧ (∀ req : Request, req.wf = true ↔ req.txtLen ≤ Config.textMax) ∧
  (∀ s : State, s.slot = .empty → s.inp.rst = false → s.inp.reqValid = true →
    Config.textMax < s.inp.req.txtLen → step s = .refused .textTooLong)

/-- Meanings are asked of `PENDING` only (R32): elsewhere every one of them stops by name, which is the model's own
(notes/assumptions 6). -/
def Obligations.ExecNeedsPendingRequest : Prop :=
  ∀ (i : Instr) (s : State), (∀ req, s.slot ≠ .pending req) → exec i s = .fault .noPendingRequest

/-- Reset is the only way the state changes other than by the three steps (70_reset_and_hazards.md R222): the ports
are never written, and the slot is unchanged or changes by reset, accept, execute or deliver, each where it is
enabled. -/
def Obligations.SlotChangesOnlyBySteps : Prop :=
  ∀ s t : State, step s = .next t → t.inp = s.inp ∧
    (t.slot = s.slot ∨ (s.inp.rst = true ∧ t.slot = .empty) ∨
      (s.inp.rst = false ∧ s.inp.reqValid = true ∧ s.slot = .empty ∧ t.slot = .pending s.inp.req) ∨
      (s.inp.rst = false ∧ ∃ req, s.slot = .pending req ∧ t.slot = .done (answer req)) ∨
      (s.inp.rst = false ∧ s.inp.respReady = true ∧ (∃ r, s.slot = .done r) ∧ t.slot = .empty))

/-- Every step keeps the invariant: the slot holds a request the port can carry, or a response the block can give
(status 0 to 4; a failure bare; texts as `RENDER` writes them or zero). -/
def Obligations.StepKeepsInv : Prop := ∀ s t : State, s.Inv → step s = .next t → t.Inv

/-- The invariant holds after reset. -/
def Obligations.ResetHasInv : Prop := State.reset.Inv

/-! ### The parity engine -/

/-- The two parity bits (40_parity_unit.md R110, R111): by counting, by exclusive-or, and for a count of zero. -/
def Obligations.ParityFormulas : Prop :=
  ∀ p : Payload,
    (evenBit p).toNat = onesIn p 12 12 % 2 ∧ (oddBit p).toNat = 1 - onesIn p 0 12 % 2 ∧
    evenBit p = BitVec.ofBool (xorOf p 12 12) ∧ oddBit p = BitVec.ofBool (!xorOf p 0 12) ∧
    (onesIn p 12 12 = 0 → evenBit p = 0) ∧ (onesIn p 0 12 = 0 → oddBit p = 1)

/-- `compute_parity` on every payload (R112): the two bits are those of R110 and R111, each depends on its own group
only, and flipping any one bit of a group flips that group's parity bit. -/
def Obligations.ParityLocality : Prop :=
  (∀ p : Payload, ParityOf p (computeParity p).even (computeParity p).odd) ∧
  (∀ p q : Payload, p.extractLsb' 12 12 = q.extractLsb' 12 12 → (computeParity p).even = (computeParity q).even) ∧
  (∀ p q : Payload, p.extractLsb' 0 12 = q.extractLsb' 0 12 → (computeParity p).odd = (computeParity q).odd) ∧
  (∀ (p : Payload) (n : Nat), 12 ≤ n → n < 24 →
    (computeParity (p ^^^ BitVec.twoPow 24 n)).even = ~~~(computeParity p).even) ∧
  (∀ (p : Payload) (n : Nat), n < 12 →
    (computeParity (p ^^^ BitVec.twoPow 24 n)).odd = ~~~(computeParity p).odd)

/-- What the formulas make of the frame (R113): the even bit with the first group holds an even number of 1s, the
second group with the odd bit an odd number. -/
def Obligations.FrameGroupsBalanced : Prop :=
  ∀ p : Payload,
    onesIn ((computeParity p).even ++ p.extractLsb' 12 12 : BitVec 13) 0 13 % 2 = 0 ∧
    onesIn (p.extractLsb' 0 12 ++ (computeParity p).odd : BitVec 13) 0 13 % 2 = 1

/-- COMPUTE_PARITY completes (R115): `res[1]` even, `res[0]` odd, the rest of `res`, `warn` and both texts zero. -/
def Obligations.ComputeParityResult : Prop :=
  ∀ (s : State) (req : Request) (p : Payload), s.slot = .pending req →
    ∃ r, Executes (.computeParity p) s r ∧ r.status = 0 ∧ r.res.extractLsb' 2 24 = 0 ∧
      ParityOf p (r.res.extractLsb' 1 1) (r.res.extractLsb' 0 1) ∧ r.warn = 0 ∧ TextsZero r

/-- `validate_parity`, each side on its own, and its consequences (R116, R117). -/
def Obligations.ValidateParitySides : Prop :=
  ∀ (se so : Bit) (ex : ParityPair),
    let v := validateParity se so ex
    (v.evenMismatch = 1 ↔ se ≠ ex.even) ∧ (v.oddMismatch = 1 ↔ so ≠ ex.odd) ∧
    v.acceptedEven = (if se ≠ ex.even then ex.even else se) ∧ v.acceptedOdd = (if so ≠ ex.odd then ex.odd else so) ∧
    v.acceptedEven = ex.even ∧ v.acceptedOdd = ex.odd ∧
    se = v.acceptedEven ^^^ v.evenMismatch ∧ so = v.acceptedOdd ^^^ v.oddMismatch

/-- VALIDATE_PARITY completes (R118): accepted pair in `res[3:2]`, mismatch flags in `res[1:0]`, the rest zero,
status `OK` whatever the flags. -/
def Obligations.ValidateParityResult : Prop :=
  ∀ (s : State) (req : Request) (se so : Bit) (ex : ParityPair), s.slot = .pending req →
    ∃ r, Executes (.validateParity se so ex) s r ∧ r.status = 0 ∧ r.res.extractLsb' 4 22 = 0 ∧
      r.res.extractLsb' 3 1 = ex.even ∧ r.res.extractLsb' 2 1 = ex.odd ∧
      r.res.extractLsb' 1 1 = se ^^^ ex.even ∧ r.res.extractLsb' 0 1 = so ^^^ ex.odd ∧ r.warn = 0 ∧ TextsZero r

/-! ### The parsers -/

/-- Character classes and values, and the two output characters (30_encoding.md R82, R83). -/
def Obligations.CharacterCodes : Prop :=
  (∀ c : Code, (isBin c = true ↔ c = 0x30 ∨ c = 0x31) ∧ (isBin c = true → binVal c = BitVec.ofBool (c.getLsbD 0)) ∧
    (isDec c = true ↔ 0x30 ≤ c.toNat ∧ c.toNat ≤ 0x39) ∧ (isDec c = true → decVal c = c.toNat - 0x30) ∧
    (isHex c = true ↔ isDec c = true ∨ (0x41 ≤ c.toNat ∧ c.toNat ≤ 0x46) ∨ (0x61 ≤ c.toNat ∧ c.toNat ≤ 0x66)) ∧
    (isDec c = true → (hexVal c).toNat = c.toNat - 0x30) ∧
    (0x41 ≤ c.toNat → c.toNat ≤ 0x46 → (hexVal c).toNat = c.toNat - 0x41 + 10) ∧
    (0x61 ≤ c.toNat → c.toNat ≤ 0x66 → (hexVal c).toNat = c.toNat - 0x61 + 10)) ∧
  binChar 0 = 0x30 ∧ binChar 1 = 0x31 ∧
  (∀ h : BitVec 4, (hexChar h).toNat = if h.toNat ≤ 9 then 0x30 + h.toNat else 0x41 + (h.toNat - 10))

/-- The decimal pair's grammar (R87): the parser splits a text exactly when it has one comma between two non-empty
groups of digits, and there is only one place for it. -/
def Obligations.DecimalGrammar : Prop :=
  ∀ t : Text,
    (∀ f c : Text, decimalGroups t = some (f, c) ↔ ∃ k, DecimalAt t k ∧ f = slice t 0 k ∧ c = slice t (k + 1) t.length) ∧
    (∀ j k, DecimalAt t j → DecimalAt t k → j = k)

/-- `nat` is exact (R90): the sum of the digits' values by powers of ten, whatever the length, and a leading zero
contributes nothing. -/
def Obligations.DecimalValueExact : Prop :=
  ∀ g : Text, decNat g = decimalSum g 0 g.length ∧ decNat (0x30 :: g) = decNat g

/-- FROM_BIN24 completes (41_bitfield_parsers.md R132, 30_encoding.md R84, R88): on 24 binary digits it answers the
Credential they spell, with computed parity and no warnings. -/
def Obligations.FromBin24Result : Prop :=
  ∀ (s : State) (req : Request), s.slot = .pending req → Binary24 (requestText req) →
    ∃ r k, Executes .fromBin24 s r ∧ CredentialAnswered r k 0 ∧ ParityHeld k ∧
      BitsSpelled k.facility (requestText req) 0 ∧ BitsSpelled k.card (requestText req) 8

/-- FROM_BIN26 completes (R133, R85): on 26 binary digits it answers the Credential of the middle 24 with computed
parity, and each warning bit is 1 exactly when the end digit of its side differs from the computed bit. -/
def Obligations.FromBin26Result : Prop :=
  ∀ (s : State) (req : Request), s.slot = .pending req → Binary26 (requestText req) →
    ∃ r k w, Executes .fromBin26 s r ∧ CredentialAnswered r k w ∧ ParityHeld k ∧
      BitsSpelled k.facility (requestText req) 1 ∧ BitsSpelled k.card (requestText req) 9 ∧
      (w.getLsbD 1 = true ↔ charAt (requestText req) 0 ≠ binChar k.evenParity) ∧
      (w.getLsbD 0 = true ↔ charAt (requestText req) 25 ≠ binChar k.oddParity)

/-- FROM_HEX completes (R135, R86, R89): on six hex digits of either case, bare or after `0x` or `0X`, it answers the
Credential of the payload they spell, with computed parity and no warnings. -/
def Obligations.FromHexResult : Prop :=
  ∀ (s : State) (req : Request) (a : Nat), s.slot = .pending req → HexFrom (requestText req) a →
    ∃ r k, Executes .fromHex s r ∧ CredentialAnswered r k 0 ∧ ParityHeld k ∧
      NibblesSpelled (k.facility ++ k.card : BitVec 24) (requestText req) a

/-- FROM_DEC completes (R136, R137, R87, R90): on a decimal pair with both exact values in range it answers the
Credential of those values, with computed parity and no warnings. -/
def Obligations.FromDecResult : Prop :=
  ∀ (s : State) (req : Request) (k : Nat), s.slot = .pending req → DecimalAt (requestText req) k →
    facilityNumber (requestText req) k ≤ 255 → cardNumber (requestText req) k ≤ 65535 →
    ∃ r c, Executes .fromDec s r ∧ CredentialAnswered r c 0 ∧ ParityHeld c ∧
      c.facility.toNat = facilityNumber (requestText req) k ∧ c.card.toNat = cardNumber (requestText req) k

/-- A text that does not match its grammar gives `INVALID_FORMAT` and nothing else, whatever its digits would be
worth; and nothing else gives that status (60_exceptions.md R190, 41_bitfield_parsers.md R138). -/
def Obligations.MalformedTextIsInvalidFormat : Prop :=
  (∀ (i : Instr) (s : State) (req : Request), s.slot = .pending req → ¬ TextMatches i (requestText req) →
    ∃ r, Executes i s r ∧ BareStatus r 1) ∧
  (∀ (i : Instr) (s : State) (req : Request) (r : Response), s.slot = .pending req → Executes i s r →
    r.status = 1 → TakesText i ∧ ¬ TextMatches i (requestText req))

/-- The two out-of-range failures (R191, R136): `FROM_DEC` of a decimal pair answers `OUT_OF_RANGE_FACILITY` where
the exact facility value exceeds 255, `OUT_OF_RANGE_CARD` where only the card value exceeds 65535, nothing else in the
response; neither status has another cause, and no other operation answers it. -/
def Obligations.OutOfRangeByExactValue : Prop :=
  (∀ (s : State) (req : Request) (k : Nat), s.slot = .pending req → DecimalAt (requestText req) k →
    (255 < facilityNumber (requestText req) k → ∃ r, Executes .fromDec s r ∧ BareStatus r 2) ∧
    (facilityNumber (requestText req) k ≤ 255 → 65535 < cardNumber (requestText req) k →
      ∃ r, Executes .fromDec s r ∧ BareStatus r 3)) ∧
  (∀ (s : State) (req : Request) (r : Response), s.slot = .pending req → Executes .fromDec s r →
    (r.status = 2 → ∃ k, DecimalAt (requestText req) k ∧ 255 < facilityNumber (requestText req) k) ∧
    (r.status = 3 → ∃ k, DecimalAt (requestText req) k ∧ facilityNumber (requestText req) k ≤ 255 ∧
      65535 < cardNumber (requestText req) k)) ∧
  (∀ (i : Instr) (s : State) (r : Response), Executes i s r → r.status = 2 ∨ r.status = 3 → i = .fromDec)

/-- The two binary modes never stand in for each other (R134): a 26-character text under FROM_BIN24 and a
24-character text under FROM_BIN26 give `INVALID_FORMAT`; the mode is chosen by the instruction word, never by the
text. -/
def Obligations.BinaryModesNeverMix : Prop :=
  (∀ (s : State) (req : Request), s.slot = .pending req → s.inp.rst = false →
    requestWord req = 0x00000000#29 → (requestText req).length = 26 →
    ∃ r, step s = .next (s.withSlot (.done r)) ∧ BareStatus r 1) ∧
  (∀ (s : State) (req : Request), s.slot = .pending req → s.inp.rst = false →
    requestWord req = 0x04000000#29 → (requestText req).length = 24 →
    ∃ r, step s = .next (s.withSlot (.done r)) ∧ BareStatus r 1)

/-- FROM_BIN26 answers in every field but `warn` exactly what FROM_BIN24 answers for the middle 24 characters, a
success; the end characters decide `warn` and nothing else, so a parity mismatch never fails (R133,
40_parity_unit.md R119). -/
def Obligations.EndBitsDecideWarnOnly : Prop :=
  ∀ t : Text, Binary26 t →
    let r := respond .fromBin26 t
    let m := respond .fromBin24 (slice t 1 25)
    r.status = 0 ∧ m.status = 0 ∧ r.res = m.res ∧ r.binTxt = m.binTxt ∧ r.hexTxt = m.hexTxt ∧
      r.warn = ((binVal (charAt t 0) ^^^ r.res.extractLsb' 25 1) ++ (binVal (charAt t 25) ^^^ r.res.extractLsb' 0 1) : BitVec 2)

/-! ### The formatter -/

/-- RENDER completes on every Credential (42_credential_formatter.md R170, R171, R172, R174): the 26 characters of the
frame with the parity bits as given, the 6 uppercase digits of the payload, and the two integers. -/
def Obligations.RenderResult : Prop :=
  ∀ (s : State) (req : Request) (k : Credential), s.slot = .pending req →
    ∃ r, Executes (.render k) s r ∧ r.status = 0 ∧ r.warn = 0 ∧
      (∀ i (h : i < 26), r.binTxt[i] = if (frameOf k).getLsbD (25 - i) then 0x31 else 0x30) ∧
      (∀ i (h : i < 6), r.hexTxt[i] =
        hexChar ((k.facility ++ k.card : BitVec 24).extractLsb' (20 - 4 * i) 4)) ∧
      r.res.extractLsb' 16 8 = k.facility ∧ r.res.extractLsb' 0 16 = k.card ∧ r.res.extractLsb' 24 2 = 0

/-- The parity bits a client hands to RENDER influence the two end characters of `bin_txt` and nothing else: no other
character, no other field, not `status` and not `warn`, where a mismatch would show (R171, R173, R174). -/
def Obligations.RenderParityShowsAtEndsOnly : Prop :=
  ∀ j k : Credential, j.facility = k.facility → j.card = k.card →
    (respond (.render j) []).status = (respond (.render k) []).status ∧
    (respond (.render j) []).res = (respond (.render k) []).res ∧
    (respond (.render j) []).warn = (respond (.render k) []).warn ∧
    (respond (.render j) []).hexTxt = (respond (.render k) []).hexTxt ∧
    (∀ i (h : i < 26), i ≠ 0 → i ≠ 25 →
      (respond (.render j) []).binTxt[i] = (respond (.render k) []).binTxt[i])

/-! ### Whole-machine rules -/

/-- Every instruction runs on every pending request and touches only the slot: the ports stay, and the slot holds the
response the operation forms from the text (10_state.md R32, R34). -/
def Obligations.ExecFrame : Prop :=
  ∀ (i : Instr) (s : State) (req : Request), s.slot = .pending req →
    exec i s = .next (s.withSlot (.done (respond i (requestText req)))) ∧
    (s.withSlot (.done (respond i (requestText req)))).inp = s.inp

/-- Which operation can return which status (60_exceptions.md R193): the four parsers 0 or 1, FROM_DEC also 2 and 3,
the other three always 0; no operation returns 4. Each entry of the table occurs. -/
def Obligations.StatusTable : Prop :=
  (∀ (i : Instr) (s : State) (r : Response), Executes i s r →
    r.status = 0 ∨ (r.status = 1 ∧ TakesText i) ∨ (r.status = 2 ∧ i = .fromDec) ∨ (r.status = 3 ∧ i = .fromDec)) ∧
  (∀ i : Instr, TakesText i → ∃ t u, (respond i t).status = 0 ∧ (respond i u).status = 1) ∧
  (∃ t u, (respond .fromDec t).status = 2 ∧ (respond .fromDec u).status = 3)

/-- Zero fill (10_state.md R36, R35): a failing response is bare; `warn` is not zero only for FROM_BIN26; the texts are
not zero only for RENDER. It holds of every response the execute step forms, for illegal words too. -/
def Obligations.ZeroFill : Prop :=
  ∀ (s : State) (req : Request) (r : Response), s.slot = .pending req → s.inp.rst = false →
    step s = .next (s.withSlot (.done r)) →
    (r.status ≠ 0 → BareStatus r r.status) ∧
    (r.warn ≠ 0 → r.status = 0 ∧ decode (requestWord req) = .ok .fromBin26) ∧
    (¬ TextsZero r → r.status = 0 ∧ ∃ k, decode (requestWord req) = .ok (.render k))

/-- The response is a function of the request alone (20_memory.md R60, R51, 10_state.md R34): two blocks with pending
requests of the same word, the same `txt_len` and the same first `txt_len` characters answer alike, whatever their
ports show and whatever stands in the array beyond the text; and for a word that takes no text, whatever the texts. -/
def Obligations.ResponseOfRequestAlone : Prop :=
  ∀ (s u : State) (a b : Request), s.slot = .pending a → u.slot = .pending b → s.inp.rst = false → u.inp.rst = false →
    requestWord a = requestWord b →
    ((a.txtLen = b.txtLen ∧ ∀ i, i < a.txtLen → a.txt.getD i 0 = b.txt.getD i 0) ∨
      (∀ i, decode (requestWord a) = .ok i → ¬ TakesText i)) →
    ∃ r, step s = .next (s.withSlot (.done r)) ∧ step u = .next (u.withSlot (.done r))

/-- One transaction at a time, answered in the order accepted (20_memory.md R61): under any client that does not
reset, what was owed and the answers of the requests accepted are, in order, the responses delivered and what is still
owed; and at most one request is ahead of the responses. -/
def Obligations.AnsweredInOrder : Prop :=
  ∀ (s : State) (ps : List Inputs), (∀ p ∈ ps, p.rst = false) →
    let run := runClient s ps
    owed s ++ run.accepted.map answer = run.delivered ++ owed run.final ∧
    (s.slot = .empty → run.delivered.length ≤ run.accepted.length ∧ run.accepted.length ≤ run.delivered.length + 1)

/-- A transaction in the slot at a reset is lost (70_reset_and_hazards.md R221): what a client accepts and is delivered
from a reset on does not depend on what the slot held. -/
def Obligations.ResetDropsTransaction : Prop :=
  ∀ (s u : State) (p : Inputs) (ps : List Inputs), p.rst = true →
    (runClient s (p :: ps)).accepted = (runClient u (p :: ps)).accepted ∧
    (runClient s (p :: ps)).delivered = (runClient u (p :: ps)).delivered ∧
    (runClient s [p]).accepted = [] ∧ (runClient s [p]).delivered = []

/-- A client that holds its request and is ready for the response gets it in three steps from the empty slot: accept,
execute, deliver (10_state.md R31 to R33); then the block is quiescent (70_reset_and_hazards.md R230). -/
def Obligations.TransactionCompletes : Prop :=
  ∀ (s : State) (p : Inputs), s.slot = .empty → p.rst = false → p.reqValid = true → p.respReady = true →
    p.req.wf = true →
    (runClient s [p, p, p]).accepted = [p.req] ∧ (runClient s [p, p, p]).delivered = [answer p.req] ∧
    quiescent (runClient s [p, p, p]).final = true

/-! ### Agreement of the forms, round trips, the client's conventions -/

/-- Agreement between forms (41_bitfield_parsers.md R140): texts of the four forms that spell the same facility and card
get the same `res`. -/
def Obligations.FormsAgree : Prop :=
  ∀ (facility : Facility) (card : Card) (dec hex bin full : Text) (a : Nat),
    DecimalSpells dec facility card →
    HexFrom hex a → NibblesSpelled (facility ++ card : BitVec 24) hex a →
    Binary24 bin → BitsSpelled (facility ++ card : BitVec 24) bin 0 →
    Binary26 full → BitsSpelled (facility ++ card : BitVec 24) full 1 →
    (respond .fromDec dec).res = (respond .fromHex hex).res ∧ (respond .fromHex hex).res = (respond .fromBin24 bin).res ∧
    (respond .fromBin24 bin).res = (respond .fromBin26 full).res ∧
    (respond .fromDec dec).status = 0 ∧ (respond .fromHex hex).status = 0 ∧ (respond .fromBin24 bin).status = 0 ∧
    (respond .fromBin26 full).status = 0

/-- Round trip with the formatter (R141): for every Credential a `FROM_*` operation returns, RENDER's binary string
under FROM_BIN26 returns it with no warning, its hexadecimal string under FROM_HEX returns it, and any decimal spelling
of its two integers under FROM_DEC returns it. -/
def Obligations.FormatterRoundTrip : Prop :=
  ∀ (i : Instr) (t : Text), TakesText i → (respond i t).status = 0 →
    let k := (respond i t).res
    let d := respond (.render (credentialOf k)) []
    ((respond .fromBin26 d.binTxt.toList).status = 0 ∧ (respond .fromBin26 d.binTxt.toList).res = k ∧
      (respond .fromBin26 d.binTxt.toList).warn = 0) ∧
    ((respond .fromHex d.hexTxt.toList).status = 0 ∧ (respond .fromHex d.hexTxt.toList).res = k) ∧
    (∀ u, DecimalSpells u (d.res.extractLsb' 16 8) (d.res.extractLsb' 0 16) →
      (respond .fromDec u).status = 0 ∧ (respond .fromDec u).res = k)

/-- FROM_DEC then RENDER recovers the facility and the card (42_credential_formatter.md R175). -/
def Obligations.DecimalThenRenderRecovers : Prop :=
  ∀ (facility : Facility) (card : Card) (t : Text), DecimalSpells t facility card →
    let r := respond .fromDec t
    let d := respond (.render (credentialOf r.res)) []
    r.status = 0 ∧ d.res.extractLsb' 16 8 = facility ∧ d.res.extractLsb' 0 16 = card

/-- Assembly lines (30_encoding.md R93): every line that stands for a request stands for that of an instruction whose
table row the line's first word names; the request decodes to the instruction and carries the text, whose length is
`txt_len`: for a text operation the characters between the quotation marks, with `arg` zero; for the other three none.
Every instruction with every text is such a request. -/
def Obligations.AssembledLineDecodes : Prop :=
  (∀ (line : Text) (r : Request), assembleLine line = some r →
    ∃ (i : Instr) (t : Text) (row : OpRow), r = assemble i t ∧
      row ∈ opTable ∧ row.mnemonic = mnemonic i ∧
      (lineName line = nameCodes row.mnemonic ∨ lineName line = nameCodes row.sourceName) ∧
      decode (requestWord r) = .ok i ∧ requestText r = t ∧ r.txtLen = t.length ∧
      (TakesText i → lineOperand line = [0x22] ++ t ++ [0x22] ∧ r.arg = 0) ∧ (¬ TakesText i → t = [])) ∧
  (∀ (i : Instr) (t : Text), decode (requestWord (assemble i t)) = .ok i ∧ requestText (assemble i t) = t ∧
    (assemble i t).txtLen = t.length ∧ (TakesText i → (assemble i t).arg = 0))

/-- The pseudo-instruction CONVERT (R94): its first transaction is `FROM_<FORM>` of the text; where that fails there is
no second one; where it succeeds the second is `RENDER` of its `res`, and no third follows. -/
def Obligations.ConvertExpansion : Prop :=
  ∀ (form : Form) (t : Text),
    let first := assemble (formInstr form) t
    let r := respond (formInstr form) t
    (r.status ≠ 0 → convert form t = [first]) ∧
    (r.status = 0 → ∃ second, convert form t = [first, second] ∧
      requestWord second = (4#3 ++ r.res : BitVec 29))

/-- The line of a text operation or of CONVERT, by mnemonic or by alias, stands for the request of the characters between
the quotation marks, whatever they are (R93, R94). -/
def Obligations.QuotedLineIsItsText : Prop :=
  ∀ t : Text,
    (∀ name ∈ ["FROM_BIN24", "from_binary24"],
      assembleLine (nameCodes name ++ [0x20, 0x22] ++ t ++ [0x22]) = some (assemble .fromBin24 t)) ∧
    (∀ name ∈ ["FROM_BIN26", "from_binary26_no_auto_parity"],
      assembleLine (nameCodes name ++ [0x20, 0x22] ++ t ++ [0x22]) = some (assemble .fromBin26 t)) ∧
    (∀ name ∈ ["FROM_HEX", "from_hex"],
      assembleLine (nameCodes name ++ [0x20, 0x22] ++ t ++ [0x22]) = some (assemble .fromHex t)) ∧
    (∀ name ∈ ["FROM_DEC", "from_decimal_pair"],
      assembleLine (nameCodes name ++ [0x20, 0x22] ++ t ++ [0x22]) = some (assemble .fromDec t)) ∧
    (∀ pair ∈ [("CONVERT.BIN24", Form.bin24), ("CONVERT.BIN26", Form.bin26), ("CONVERT.HEX", Form.hex),
        ("CONVERT.DEC", Form.dec)],
      expandLine (nameCodes pair.1 ++ [0x20, 0x22] ++ t ++ [0x22]) = some (convert pair.2 t))

/-- The lines with a numeric operand (R93), by mnemonic or by alias and for every spelling of the literals (00_scope.md
R14). `RENDER` of a number is the request with that frame as `arg`; `RENDER` of four fields between braces is the request
with `e ++ fc ++ cc ++ o` as `arg`, in the order written; `COMPUTE_PARITY` puts the payload into `arg[23:0]`, the two bits
above it zero; `VALIDATE_PARITY` puts its four bits into `arg[3:0]` in the order written, the bits above them zero. None
carries a text. That one space follows the name and each comma is the model's reading of a line (log entry 9). -/
def Obligations.NumericLineIsItsOperand : Prop :=
  (∀ (t : Text) (frame : Frame), LiteralSpells t frame.toNat →
    ∀ name ∈ ["RENDER", "render"],
      assembleLine (nameCodes name ++ [0x20] ++ t) = some ⟨4, frame, 0, []⟩) ∧
  (∀ (t1 t2 t3 t4 : Text) (e : Bit) (fc : Facility) (cc : Card) (o : Bit),
    LiteralSpells t1 e.toNat → LiteralSpells t2 fc.toNat → LiteralSpells t3 cc.toNat → LiteralSpells t4 o.toNat →
    ∀ name ∈ ["RENDER", "render"],
      assembleLine (nameCodes name ++ [0x20, 0x7B] ++ fourMembers t1 t2 t3 t4 ++ [0x7D]) =
        some ⟨4, e ++ fc ++ cc ++ o, 0, []⟩) ∧
  (∀ (t : Text) (payload : Payload), LiteralSpells t payload.toNat →
    ∀ name ∈ ["COMPUTE_PARITY", "compute_parity"],
      assembleLine (nameCodes name ++ [0x20] ++ t) = some ⟨5, 0#2 ++ payload, 0, []⟩) ∧
  (∀ (t1 t2 t3 t4 : Text) (se so ee eo : Bit),
    LiteralSpells t1 se.toNat → LiteralSpells t2 so.toNat → LiteralSpells t3 ee.toNat → LiteralSpells t4 eo.toNat →
    ∀ name ∈ ["VALIDATE_PARITY", "validate_parity"],
      assembleLine (nameCodes name ++ [0x20] ++ fourMembers t1 t2 t3 t4) =
        some ⟨6, 0#22 ++ (se ++ so ++ ee ++ eo), 0, []⟩)
end

