-- ==== Sys2Proof/Laws/Operands.lean ====
section
/-! SUPPORT. The small lemmas of the text and digit operations. -/

namespace Sys2Proof.Machine

/-- A request's text has `txt_len` characters. -/
@[simp] theorem requestText_length (r : Request) : (requestText r).length = r.txtLen := by
  simp [requestText]

/-- Character `i` of a request's text is character `i` of the array. -/
theorem requestText_charAt (r : Request) (i : Nat) (h : i < r.txtLen) :
    charAt (requestText r) i = r.txt.getD i 0 := by
  simp [charAt, requestText, h]

/-- A text is read through its first `txt_len` characters only. -/
theorem requestText_congr {a b : Request} (hn : a.txtLen = b.txtLen)
    (h : ∀ i, i < a.txtLen → a.txt.getD i 0 = b.txt.getD i 0) : requestText a = requestText b := by
  unfold requestText
  rw [← hn]
  exact List.map_congr_left fun i hi => h i (List.mem_range.1 hi)

/-- A check of every character, by positions. -/
theorem all_charAt (t : Text) (f : Code → Bool) : t.all f = true ↔ ∀ i, i < t.length → f (charAt t i) = true := by
  rw [List.all_eq_true]
  constructor
  · intro h i hi
    apply h
    simp [charAt, hi]
  · intro h c hc
    obtain ⟨i, hi, rfl⟩ := List.getElem_of_mem hc
    simpa [charAt, hi] using h i hi

/-- Characters after a cut. -/
@[simp] theorem charAt_drop (t : Text) (a i : Nat) : charAt (t.drop a) i = charAt t (a + i) := by
  simp [charAt]

/-- One digit more at the right end. -/
theorem digitsNat_append (b : Nat) (ds : List Nat) (d : Nat) : digitsNat b (ds ++ [d]) = digitsNat b ds * b + d := by
  simp [digitsNat]

/-- One digit more at the left end. -/
theorem digitsNat_cons (b d : Nat) (ds : List Nat) :
    digitsNat b (d :: ds) = d * b ^ ds.length + digitsNat b ds := by
  induction ds using List.reverseRecOn with
  | nil => simp [digitsNat]
  | append_singleton ds e ih =>
    rw [← List.cons_append, digitsNat_append, ih, digitsNat_append, List.length_append, List.length_singleton,
      Nat.pow_succ]
    ring

end Sys2Proof.Machine
end

