-- ==== Sys2Proof/Laws/Assembler.lean ====
section
/-! SUPPORT. What the parts of the assembly-line reader can answer (spec/30_encoding.md R93). -/

namespace Sys2Proof.Machine

/-- A quoted operand is its text between two quotation marks. -/
theorem quotedText_eq_some {o t : Text} (h : quotedText o = some t) : o = [0x22] ++ t ++ [0x22] := by
  unfold quotedText at h
  split at h
  · rename_i q rest
    split at h
    · rename_i hq
      simp only [Bool.and_eq_true, beq_iff_eq] at hq
      obtain ⟨rfl, hl⟩ := hq
      cases h
      exact congrArg (List.cons _) (List.dropLast_append_getLast? _ hl).symm
    · cases h
  · cases h

/-- The operation code a first word names is the place of a row that the word names, by mnemonic or by source name. -/
theorem namedOp_eq_some {t : Text} {n : Nat} (h : namedOp t = some n) :
    ∃ row, opTable[n]? = some row ∧ (t = nameCodes row.mnemonic ∨ t = nameCodes row.sourceName) := by
  rw [namedOp, List.findIdx?_eq_some_iff_getElem] at h
  obtain ⟨hn, hr, -⟩ := h
  exact ⟨opTable[n], by simp [hn], by simpa [namesRow] using hr⟩

/-- The operand of a `VALIDATE_PARITY` line gives a `VALIDATE_PARITY` instruction. -/
theorem validateOperand_eq_some {o : Text} {i : Instr} (h : validateOperand o = some i) :
    ∃ se so ex, i = .validateParity se so ex := by
  unfold validateOperand at h
  split at h
  · simp only [Option.bind_eq_bind, Option.bind_eq_some_iff] at h
    obtain ⟨_, -, _, -, _, -, _, -, h⟩ := h
    cases h
    exact ⟨_, _, _, rfl⟩
  · cases h

/-- A line is cut at the first space after its name; the operand begins at the first character that is no space. -/
theorem line_of_name {name operand : Text} {c : Code} (hn : ∀ x ∈ name, (x != spaceCode) = true)
    (hc : (c == spaceCode) = false) :
    lineName (name ++ [0x20] ++ (c :: operand)) = name ∧
    lineOperand (name ++ [0x20] ++ (c :: operand)) = c :: operand := by
  have e : name ++ [0x20] ++ (c :: operand) = name ++ (spaceCode :: c :: operand) := by simp [spaceCode]
  rw [e]
  constructor
  · rw [lineName, List.takeWhile_append_of_pos hn]
    simp
  · rw [lineOperand, List.dropWhile_append_of_pos hn]
    simp [hc]

/-- A list with a comma in it is the first member and the members after the comma. -/
theorem members_comma (a b : Text) (ha : ∀ x ∈ a, (x == comma) = false) :
    members (a ++ comma :: b) = a.dropWhile (· == spaceCode) :: members b := by
  rw [members, List.splitOn, List.splitOnP_append_cons a b (sep := comma) rfl, List.splitOnP_eq_singleton ha]
  rfl

/-- A list without a comma is one member. -/
theorem members_one (a : Text) (ha : ∀ x ∈ a, (x == comma) = false) :
    members a = [a.dropWhile (· == spaceCode)] := by
  rw [members, List.splitOn, List.splitOnP_eq_singleton ha]
  rfl

end Sys2Proof.Machine
end

