-- ==== Sys2Proof/Laws/Decode.lean ====
section
/-! SUPPORT. Fields of concatenations, and the decoder on a word given by its two fields. -/

namespace Sys2Proof

/-- The upper part of a concatenation. -/
theorem extract_append_hi {m n : Nat} (x : BitVec m) (y : BitVec n) : (x ++ y).extractLsb' n m = x := by
  ext i hi
  simp [BitVec.getElem_extractLsb', BitVec.getLsbD_append, hi, BitVec.getLsbD_eq_getElem]

/-- The lower part of a concatenation. -/
theorem extract_append_lo {m n : Nat} (x : BitVec m) (y : BitVec n) : (x ++ y).extractLsb' 0 n = y := by
  ext i hi
  simp [BitVec.getElem_extractLsb', BitVec.getLsbD_append, hi, BitVec.getLsbD_eq_getElem]

/-- A field that lies in the upper part. -/
theorem extract_append_inside_hi {m n : Nat} (x : BitVec m) (y : BitVec n) (a k : Nat) (h : n ≤ a) :
    (x ++ y).extractLsb' a k = x.extractLsb' (a - n) k := by
  ext i hi
  have : ¬ a + i < n := by omega
  simp [BitVec.getElem_extractLsb', BitVec.getLsbD_append, this]
  congr 1; omega

/-- A field that lies in the lower part. -/
theorem extract_append_inside_lo {m n : Nat} (x : BitVec m) (y : BitVec n) (a k : Nat) (h : a + k ≤ n) :
    (x ++ y).extractLsb' a k = y.extractLsb' a k := by
  ext i hi
  have : a + i < n := by omega
  simp [BitVec.getElem_extractLsb', BitVec.getLsbD_append, this]

/-- Two adjacent fields joined are one field. -/
theorem extract_join {w m n : Nat} (x : BitVec w) (a : Nat) :
    x.extractLsb' (a + n) m ++ x.extractLsb' a n = x.extractLsb' a (m + n) := by
  ext i hi
  simp only [BitVec.getElem_append, BitVec.getElem_extractLsb']
  split
  · rfl
  · congr 1; omega

/-- The whole of a vector as a field. -/
theorem extract_all {n : Nat} (x : BitVec n) : x.extractLsb' 0 n = x := by
  ext i hi
  simp

@[simp] theorem opField_append (o : BitVec 3) (a : Arg) : opField (o ++ a : BitVec 29) = o :=
  extract_append_hi o a

@[simp] theorem argField_append (o : BitVec 3) (a : Arg) : argField (o ++ a : BitVec 29) = a :=
  extract_append_lo o a

/-- A word is its two fields. -/
theorem word_of_fields (w : IWord) : (opField w ++ argField w : BitVec 29) = w :=
  (extract_join (m := 3) (n := 26) w 0).trans (extract_all w)

/-- The decoder sees the two fields and nothing else. -/
theorem decode_append (o : BitVec 3) (a : Arg) : decode (o ++ a : BitVec 29) = decodeFields o a := by
  rw [decode, opField_append, argField_append]

/-- A check of must-be-zero bits passes exactly when they are clear. -/
theorem withZero_ok {b : Bool} {i j : Instr} : withZero b i = .ok j ↔ b = true ∧ i = j := by
  unfold withZero; split <;> simp_all

/-- The bits of a word given by its fields. -/
theorem word_bit (o : BitVec 3) (a : Arg) (i : Nat) :
    (o ++ a : BitVec 29).getLsbD i = if i < 26 then a.getLsbD i else o.getLsbD (i - 26) :=
  BitVec.getLsbD_append

/-- A mask of all bits from `n` up picks the operation code and the `arg` bits from `n` up. -/
theorem masked_eq {o : BitVec 3} {a : Arg} {n : Nat} {m : IWord}
    (hm : ∀ i, i < 29 → m.getLsbD i = decide (n ≤ i)) (hn : n ≤ 26) (h : a.extractLsb' n (26 - n) = 0) :
    (o ++ a : BitVec 29) &&& m = (o ++ 0#26 : BitVec 29) := by
  ext i hi
  rw [← BitVec.getLsbD_eq_getElem, ← BitVec.getLsbD_eq_getElem, BitVec.getLsbD_and, hm i hi, word_bit, word_bit]
  split
  · have := congrArg (fun v => v.getLsbD (i - n)) h
    by_cases hni : n ≤ i
    · simp only [BitVec.getLsbD_extractLsb', show i - n < 26 - n by omega, show n + (i - n) = i by omega] at this
      simpa [hni] using this
    · simp [hni]
  · simp [show n ≤ i by omega]

end Sys2Proof
end

