-- ==== Sys2Proof/Laws/Flags.lean ====
section
/-! SUPPORT. The small lemmas of the counts behind the parity bits. -/

namespace Sys2Proof.Machine

@[simp] theorem onesIn_zero {n : Nat} (v : BitVec n) (lo : Nat) : onesIn v lo 0 = 0 := rfl

/-- One bit more. -/
theorem onesIn_succ {n : Nat} (v : BitVec n) (lo k : Nat) :
    onesIn v lo (k + 1) = onesIn v lo k + (v.getLsbD (lo + k)).toNat := by
  simp only [onesIn, List.range_succ, List.countP_append, List.countP_singleton]
  cases v.getLsbD (lo + k) <;> rfl

/-- Counts of runs of equal bits are equal. -/
theorem onesIn_congr {n m : Nat} (v : BitVec n) (w : BitVec m) (a b k : Nat)
    (h : ∀ i, i < k → w.getLsbD (b + i) = v.getLsbD (a + i)) : onesIn w b k = onesIn v a k := by
  induction k with
  | zero => rfl
  | succ k ih => rw [onesIn_succ, onesIn_succ, ih fun i hi => h i (by omega), h k (by omega)]

/-- `popcount` counts all the bits. -/
theorem popcount_eq {n : Nat} (v : BitVec n) : popcount v = onesIn v 0 n := by
  have below : ∀ k, onesBelow v k = onesIn v 0 k := by
    intro k
    induction k with
    | zero => rfl
    | succ k ih => rw [onesBelow, onesIn_succ, ih, Nat.zero_add]
  exact below n

/-- The accepted bit is the expected bit (40_parity_unit.md R117). -/
@[simp] theorem accepted_eq (supplied expected : Bit) : accepted supplied expected = expected := by
  revert supplied expected; decide

end Sys2Proof.Machine
end

