-- ==== Sys2Proof/Laws/State.lean ====
section
/-! SUPPORT. One lemma per field per update of the state. -/

namespace Sys2Proof.Machine

@[simp] theorem withSlot_slot (s : State) (t : Slot) : (s.withSlot t).slot = t := rfl

@[simp] theorem withSlot_inp (s : State) (t : Slot) : (s.withSlot t).inp = s.inp := rfl

@[simp] theorem driven_slot (s : State) (p : Inputs) : (s.driven p).slot = s.slot := rfl

@[simp] theorem driven_inp (s : State) (p : Inputs) : (s.driven p).inp = p := rfl

@[simp] theorem withSlot_withSlot (s : State) (t u : Slot) : (s.withSlot t).withSlot u = s.withSlot u := rfl

@[simp] theorem driven_driven (s : State) (p q : Inputs) : (s.driven p).driven q = s.driven q := rfl

theorem withSlot_driven (s : State) (t : Slot) (p : Inputs) :
    (s.withSlot t).driven p = (s.driven p).withSlot t := rfl

/-- Setting the slot to what it is changes nothing. -/
theorem withSlot_self {s : State} {t : Slot} (h : s.slot = t) : s.withSlot t = s := by
  subst h; rfl

/-- Two updates of one state that agree hold the same slot. -/
theorem withSlot_inj {s : State} {t u : Slot} (h : s.withSlot t = s.withSlot u) : t = u :=
  congrArg State.slot h

@[simp] theorem reset_slot : State.reset.slot = .empty := rfl

@[simp] theorem reset_inp : State.reset.inp = Inputs.idle := rfl

end Sys2Proof.Machine
end

