-- ==== Sys2Proof/Laws/Ops.lean ====
section
/-! SUPPORT. What each shared operation and each step can do, said once. -/

namespace Sys2Proof.Machine

@[simp] theorem zeroResponse_status : zeroResponse.status = 0 := rfl
@[simp] theorem zeroResponse_res : zeroResponse.res = 0 := rfl
@[simp] theorem zeroResponse_warn : zeroResponse.warn = 0 := rfl
@[simp] theorem okResponse_status (r : BitVec 26) (w : BitVec 2) : (okResponse r w).status = 0 := rfl
@[simp] theorem okResponse_res (r : BitVec 26) (w : BitVec 2) : (okResponse r w).res = r := rfl
@[simp] theorem okResponse_warn (r : BitVec 26) (w : BitVec 2) : (okResponse r w).warn = w := rfl
@[simp] theorem okResponse_binTxt (r : BitVec 26) (w : BitVec 2) :
    (okResponse r w).binTxt = Vector.replicate 26 0 := rfl
@[simp] theorem okResponse_hexTxt (r : BitVec 26) (w : BitVec 2) :
    (okResponse r w).hexTxt = Vector.replicate 6 0 := rfl
@[simp] theorem failureResponse_status (f : Failure) : (failureResponse f).status = statusOf f := rfl
@[simp] theorem failureResponse_res (f : Failure) : (failureResponse f).res = 0 := rfl
@[simp] theorem failureResponse_warn (f : Failure) : (failureResponse f).warn = 0 := rfl
@[simp] theorem failureResponse_binTxt (f : Failure) :
    (failureResponse f).binTxt = Vector.replicate 26 0 := rfl
@[simp] theorem failureResponse_hexTxt (f : Failure) :
    (failureResponse f).hexTxt = Vector.replicate 6 0 := rfl
@[simp] theorem renderResponse_status (k : Credential) : (renderResponse k).status = 0 := rfl
@[simp] theorem renderResponse_warn (k : Credential) : (renderResponse k).warn = 0 := rfl

/-- On a pending request the execute step forms its response. -/
theorem execute_pending {form : Request → Response} {s : State} {req : Request} (h : s.slot = .pending req) :
    execute form s = .next (s.withSlot (.done (form req))) := by
  simp [execute, h]

/-- All that the execute step can do: if it answers a next state, a request was pending and its response is in the
slot. -/
theorem execute_cases {form : Request → Response} {s t : State} (h : execute form s = .next t) :
    ∃ req, s.slot = .pending req ∧ t = s.withSlot (.done (form req)) := by
  unfold execute at h
  split at h
  · exact ⟨_, ‹_›, by cases h; rfl⟩
  · cases h

/-- Off a pending request it stops by name. -/
theorem execute_not_pending {form : Request → Response} {s : State} (h : ∀ req, s.slot ≠ .pending req) :
    execute form s = .fault .noPendingRequest := by
  unfold execute
  split
  · exact absurd ‹_› (h _)
  · rfl

/-- Every meaning is the execute step with the response its operation forms from the text. -/
theorem exec_eq_execute (i : Instr) (s : State) :
    exec i s = execute (fun req => respond i (requestText req)) s := by
  cases i <;> rfl

/-- The step under reset. -/
theorem step_rst {s : State} (h : s.inp.rst = true) : step s = .next (s.withSlot .empty) := by
  simp [step, h, resetStep]

/-- The step on an empty slot. -/
theorem step_empty {s : State} (hr : s.inp.rst = false) (h : s.slot = .empty) : step s = acceptStep s := by
  simp [step, hr, h]

/-- The step on a slot that holds a response. -/
theorem step_done {s : State} {r : Response} (hr : s.inp.rst = false) (h : s.slot = .done r) :
    step s = deliverStep s := by
  simp [step, hr, h]

/-- The step on a pending request. -/
theorem step_pending {s : State} {req : Request} (hr : s.inp.rst = false) (h : s.slot = .pending req) :
    step s = executeStep req s := by
  simp [step, hr, h]

end Sys2Proof.Machine
end

