-- ==== Sys2Proof/Laws/PerInstr.lean ====
section
/-! SUPPORT. Per instruction: its word selects its own row of the operation table (spec/30_encoding.md R76). -/

namespace Sys2Proof.Laws.EncodesItsRow

open Sys2Proof

/-- The instruction's word selects a row of the table, and the row bears its mnemonic. -/
def Statement (i : Instr) : Prop :=
  ∃ row, row ∈ opTable ∧ row.mnemonic = mnemonic i ∧ selects row (encode i) = true

theorem fromBin24 : Statement .fromBin24 := ⟨opTable[0], by decide, rfl, by decide⟩

theorem fromBin26 : Statement .fromBin26 := ⟨opTable[1], by decide, rfl, by decide⟩

theorem fromHex : Statement .fromHex := ⟨opTable[2], by decide, rfl, by decide⟩

theorem fromDec : Statement .fromDec := ⟨opTable[3], by decide, rfl, by decide⟩

theorem render (k : Credential) : Statement (.render k) := by
  refine ⟨opTable[4], by decide, rfl, beq_iff_eq.2 ?_⟩
  exact (masked_eq (o := 4) (a := frameOf k) (m := 0x1C000000#29) (n := 26) (by decide) (by decide)
    (by ext i hi; omega)).trans (by decide)

theorem computeParity (p : Payload) : Statement (.computeParity p) := by
  refine ⟨opTable[5], by decide, rfl, beq_iff_eq.2 ?_⟩
  exact (masked_eq (o := 5) (a := (0#2 ++ p : BitVec 26)) (m := 0x1F000000#29) (n := 24) (by decide) (by decide)
    (extract_append_hi 0#2 p)).trans (by decide)

theorem validateParity (se so : Bit) (ex : ParityPair) : Statement (.validateParity se so ex) := by
  refine ⟨opTable[6], by decide, rfl, beq_iff_eq.2 ?_⟩
  exact (masked_eq (o := 6) (a := (0#22 ++ (se ++ so ++ ex.even ++ ex.odd) : BitVec 26)) (m := 0x1FFFFFF0#29) (n := 4)
    (by decide) (by decide) (extract_append_hi 0#22 (se ++ so ++ ex.even ++ ex.odd))).trans (by decide)

end Sys2Proof.Laws.EncodesItsRow
end

