-- ==== Sys2Proof/Tests/Slice0.lean ====
section
/-! SUPPORT. The model's own tests: decoding of words written out from spec/30_encoding.md R75, R76, ill-formed terms
that the checks refuse, results from spec/95_test_vectors.md, and a witness for the hypotheses of each statement. -/

namespace Sys2Proof.Tests

open Sys2Proof Sys2Proof.Machine

/-! ### Helpers -/

/-- The codes of a string of ASCII characters (R81). -/
def codes (s : String) : Text := s.toList.map fun c => BitVec.ofNat 8 c.toNat

/-- A state with this request pending and nothing driven. -/
def pendingOn (r : Request) : State := ⟨.pending r, Inputs.idle⟩

/-- A state with this instruction and text pending. -/
def running (i : Instr) (t : String) : State := pendingOn (assemble i (codes t))

/-- The response a step puts into the slot. -/
def answered (o : Answer) : Option Response :=
  match o with
  | .next s => match s.slot with
    | .done r => some r
    | _ => none
  | _ => none

/-- What a step answers, read off as status, `res` and `warn`. -/
def seen (o : Answer) : Option (Nat × Nat × Nat) :=
  (answered o).map fun r => (r.status.toNat, r.res.toNat, r.warn.toNat)

/-- Ports of a client that presents a request and takes responses. -/
def presenting (r : Request) : Inputs := ⟨false, true, r, true⟩

/-- Ports with reset asserted. -/
def resetting : Inputs := ⟨true, true, assemble .fromDec (codes "1,2"), true⟩

/-! ### Decoding: words written out bit by bit -/

theorem test_decode_fromBin24 : decode 0b00000000000000000000000000000#29 = .ok .fromBin24 := by decide
theorem test_decode_fromBin26 : decode 0b00100000000000000000000000000#29 = .ok .fromBin26 := by decide
theorem test_decode_fromHex : decode 0b01000000000000000000000000000#29 = .ok .fromHex := by decide
theorem test_decode_fromDec : decode 0b01100000000000000000000000000#29 = .ok .fromDec := by decide
theorem test_decode_render :
    decode 0b10010101010110011001111000010#29 = .ok (.render ⟨1, 0b01010101, 0b1001100111100001, 0⟩) := by decide
theorem test_decode_computeParity :
    decode 0b10100011110111011001001101110#29 = .ok (.computeParity 0x7BB26E) := by decide
theorem test_decode_validateParity :
    decode 0b11000000000000000000000001001#29 = .ok (.validateParity 1 0 ⟨0, 1⟩) := by decide
theorem test_decode_reserved : decode 0b11100000000000000000000000000#29 = .error .reservedOp := by decide
theorem test_decode_mbz_text : decode 0b01110000000000000000000000000#29 = .error .mustBeZero := by decide
theorem test_decode_mbz_payload : decode 0b10101000000000000000000000000#29 = .error .mustBeZero := by decide
theorem test_decode_mbz_validate : decode 0b11000000000000000000000010000#29 = .error .mustBeZero := by decide
theorem test_tableWord : decodeTableWord 29 0x1800000F = some (.validateParity 1 1 ⟨1, 1⟩) := by decide
theorem test_tableWord_wide : decodeTableWord 32 0x20000000 = none := by decide
theorem test_fetchWord :
    seen (step (State.reset.withFetchWord 29 0x14010002)) = some (0, 2, 0) := by decide

/-! ### Ill-formed terms, one for each check -/

/-- A request longer than the port can carry. -/
def tooLong : Request := ⟨3, 0, Config.textMax + 1, []⟩

theorem textMax_ge : 31 ≤ Config.textMax := by
  have : 2 ^ 5 ≤ 2 ^ Config.lenw := Nat.pow_le_pow_right (by omega) (by unfold Config.lenw; omega)
  unfold Config.textMax
  omega

theorem test_wf_refuses_long_text : tooLong.wf = false := by
  have := textMax_ge
  simp [Request.wf, tooLong]
  omega

theorem test_wf_accepts_31 : (Request.mk 3 0 31 []).wf = true := by decide
theorem test_wf_refuses_status5 : ({ zeroResponse with status := 5 } : Response).statusLegal = false := by decide
theorem test_wf_refuses_partial_result :
    ({ zeroResponse with status := 1, res := 4 } : Response).failureBare = false := by decide
theorem test_wf_refuses_lowercase :
    ({ renderResponse ⟨1, 0xAB, 2, 0⟩ with hexTxt := #v[0x61, 0x42, 0x30, 0x30, 0x30, 0x32] } : Response).textsLegal
      = false := by decide

/-! ### Results (95_test_vectors.md) -/

theorem test_fromBin24 : seen (step (running .fromBin24 "000000010000000000000010")) = some (0, 0x2020004, 0) := by decide
theorem test_fromBin24_25chars : seen (step (running .fromBin24 "0000000000000000000000000")) = some (1, 0, 0) := by decide
theorem test_fromBin26_both_flipped :
    seen (step (running .fromBin26 "11010101011001100111100000")) = some (0, 0x15599E1, 3) := by decide
theorem test_fromBin26_end_not_binary :
    seen (step (running .fromBin26 "1000000010000000000000010x")) = some (1, 0, 0) := by decide
theorem test_fromHex_mixed_case : seen (step (running .fromHex "0xAbCdEf")) = some (0, 0x3579BDF, 0) := by decide
theorem test_fromHex_no_prefix8 : seen (step (running .fromHex "00000102")) = some (1, 0, 0) := by decide
theorem test_fromDec_leading_zeros : seen (step (running .fromDec "007,00012")) = some (0, 0x20E0019, 0) := by decide
theorem test_fromDec_no_wrap : seen (step (running .fromDec "0,131072")) = some (3, 0, 0) := by decide
theorem test_render_texts :
    (answered (step (running (.render ⟨0, 171, 61407, 0⟩) "garbage"))).map (fun r => (r.binTxt.toList, r.hexTxt.toList))
      = some (codes "01010101111101111110111110", codes "ABEFDF") := by decide
theorem test_render_integers : seen (step (running (.render ⟨1, 1, 2, 0⟩) "")) = some (0, 0x0010002, 0) := by decide
theorem test_computeParity_boundary : seen (step (running (.computeParity 0x001000) "")) = some (0, 3, 0) := by decide
theorem test_computeParity_boundary_low : seen (step (running (.computeParity 0x000800) "")) = some (0, 0, 0) := by decide
theorem test_validateParity : seen (step (running (.validateParity 0 0 ⟨1, 0⟩) "")) = some (0, 0xA, 0) := by decide
theorem test_validateParity_equal : seen (step (running (.validateParity 1 1 ⟨1, 1⟩) "")) = some (0, 0xC, 0) := by decide
theorem test_illegal_word_with_good_text :
    seen (step (pendingOn { assemble .fromBin24 (codes "000000010000000000000010") with arg := 1 })) = some (4, 0, 0) := by
  decide
theorem test_line_render :
    assembleLine (codes "RENDER 0x2020004") = some (assemble (.render ⟨1, 1, 2, 0⟩) []) := by decide
theorem test_line_render_fields :
    assembleLine (codes "RENDER " ++ 0x7B :: codes "1, 1, 2, 0" ++ [0x7D]) = some (assemble (.render ⟨1, 1, 2, 0⟩) []) := by
  decide
theorem test_line_validate :
    assembleLine (codes "validate_parity 0, 0, 1'b1, 0") = some (assemble (.validateParity 0 0 ⟨1, 0⟩) []) := by decide
theorem test_line_convert :
    (expandLine (codes "CONVERT.DEC \"1,2\"")).map (fun l => l.map fun r => (requestWord r).toNat) =
      some [0x0C000000, 0x12020004] := by decide
theorem test_transaction :
    (runClient State.reset [presenting (assemble .fromHex (codes "0x000102")), presenting (assemble .fromDec []),
      presenting (assemble .fromDec [])]).delivered.map (fun r => r.res.toNat) = [0x0000205] := by decide

/-! ### Witnesses: for each statement with hypotheses, states and operands that meet them -/

theorem witness_EncodeOfDecode : decode 0x12020004#29 = .ok (.render ⟨1, 1, 2, 0⟩) := by decide

theorem witness_ReservedWordsAreIllegal :
    opField 0x1C000000#29 = 7 ∧ ((opField 0x0E000000#29).toNat ≤ 3 ∧ argField 0x0E000000#29 ≠ 0) ∧
    (opField 0x15000000#29 = 5 ∧ (argField 0x15000000#29).extractLsb' 24 2 ≠ 0) ∧
    (opField 0x18000010#29 = 6 ∧ (argField 0x18000010#29).extractLsb' 4 22 ≠ 0) ∧
    (pendingOn ⟨7, 0, 0, []⟩).slot = .pending ⟨7, 0, 0, []⟩ ∧ (pendingOn ⟨7, 0, 0, []⟩).inp.rst = false ∧
    decode (requestWord ⟨7, 0, 0, []⟩) = .error .reservedOp := by decide

theorem witness_DecodeFollowsTable :
    (⟨"RENDER", "render", 0x10000000, 0x1C000000⟩ : OpRow) ∈ opTable ∧
    0x13FFFFFF#29 &&& 0x1C000000#29 = 0x10000000#29 := by decide

theorem witness_StepRunsDecoded :
    (running .fromDec "1,2").slot = .pending (assemble .fromDec (codes "1,2")) ∧
    (running .fromDec "1,2").inp.rst = false ∧
    decode (requestWord (assemble .fromDec (codes "1,2"))) = .ok .fromDec := by decide

theorem witness_ResetState : (presenting (assemble .fromDec [])).rst = false := rfl

theorem witness_ResetEmptiesSlot : ((running .fromDec "1,2").driven resetting).inp.rst = true := rfl

theorem witness_AcceptTakesPortRequest :
    let s := State.reset.driven (presenting (assemble .fromDec (codes "1,2")))
    s.inp.rst = false ∧ s.slot = .empty ∧ s.inp.reqValid = true ∧ s.inp.req.wf = true ∧
    State.reset.inp.rst = false ∧ State.reset.slot = .empty ∧ State.reset.inp.reqValid = false := by decide

theorem witness_BusyBlockIgnoresRequestPort :
    let p := presenting (assemble .fromDec (codes "1,2"))
    let q := presenting (assemble .fromHex [])
    (running .fromDec "1,2").slot ≠ .empty ∧ (⟨.done zeroResponse, p⟩ : State).slot ≠ .empty ∧ p.rst = q.rst ∧
    p.respReady = q.respReady := by decide

theorem witness_DeliverHandsOverResponse :
    let p := presenting (assemble .fromDec (codes "1,2"))
    let s : State := ⟨.done zeroResponse, p⟩
    let u : State := ⟨.done zeroResponse, Inputs.idle⟩
    s.inp.rst = false ∧ s.slot = .done zeroResponse ∧ s.inp.respReady = true ∧ u.inp.rst = false ∧
    u.inp.respReady = false ∧ respValid State.reset = false := by decide

theorem witness_PendingIsAnswered :
    (pendingOn tooLong).slot = .pending tooLong ∧ (pendingOn tooLong).inp.rst = false := ⟨rfl, rfl⟩

theorem witness_OverlongTextRefused :
    let s := State.reset.driven (presenting tooLong)
    s.slot = .empty ∧ s.inp.rst = false ∧ s.inp.reqValid = true ∧ Config.textMax < s.inp.req.txtLen :=
  ⟨rfl, rfl, rfl, Nat.lt_succ_self _⟩

theorem witness_ExecNeedsPendingRequest :
    (∀ req, State.reset.slot ≠ .pending req) ∧
    ∀ req, (⟨.done zeroResponse, Inputs.idle⟩ : State).slot ≠ .pending req :=
  ⟨fun _ h => (by cases h), fun _ h => (by cases h)⟩

theorem witness_SlotChangesOnlyBySteps :
    step State.reset = .next State.reset ∧
    step (State.reset.driven resetting) = .next (State.reset.driven resetting) ∧
    step (State.reset.driven (presenting (assemble .fromDec []))) =
      .next ((State.reset.driven (presenting (assemble .fromDec []))).withSlot (.pending (assemble .fromDec []))) ∧
    step (running (.computeParity 0) "") =
      .next ((running (.computeParity 0) "").withSlot (.done (computeParityResponse 0))) ∧
    step ⟨.done zeroResponse, presenting (assemble .fromDec [])⟩ = .next ⟨.empty, presenting (assemble .fromDec [])⟩ :=
  ⟨rfl, rfl, rfl, rfl, rfl⟩

theorem witness_StepKeepsInv :
    (running (.computeParity 0) "").Inv ∧
    step (running (.computeParity 0) "") =
      .next ((running (.computeParity 0) "").withSlot (.done (computeParityResponse 0))) :=
  ⟨(by decide : (assemble (.computeParity 0) (codes "")).wf = true), rfl⟩

theorem witness_ParityFormulas : onesIn (0 : Payload) 12 12 = 0 ∧ onesIn (0 : Payload) 0 12 = 0 := by decide

theorem witness_ParityLocality :
    (0xFFF000 : Payload).extractLsb' 12 12 = (0xFFFFFF : Payload).extractLsb' 12 12 ∧
    (0x000FFF : Payload).extractLsb' 0 12 = (0xFFFFFF : Payload).extractLsb' 0 12 ∧ 12 ≤ 12 ∧ 23 < 24 ∧ 11 < 12 := by
  decide

theorem witness_ComputeParityResult :
    (running (.computeParity 0xFFFFFF) "").slot = .pending (assemble (.computeParity 0xFFFFFF) (codes "")) := rfl

theorem witness_ValidateParityResult :
    (running (.validateParity 0 1 ⟨1, 0⟩) "").slot = .pending (assemble (.validateParity 0 1 ⟨1, 0⟩) (codes "")) := rfl

theorem witness_CharacterCodes :
    isBin 0x31 = true ∧ isDec 0x39 = true ∧ (0x41 ≤ (0x46 : Code).toNat ∧ (0x46 : Code).toNat ≤ 0x46) ∧
    (0x61 ≤ (0x61 : Code).toNat ∧ (0x61 : Code).toNat ≤ 0x66) := by decide

theorem witness_DecimalGrammar : DecimalAt (codes "1,2") 1 ∧ decimalGroups (codes "1,2") = some (codes "1", codes "2") := by
  unfold DecimalAt; decide

theorem witness_FromBin24Result :
    let req := assemble .fromBin24 (codes "000000010000000000000010")
    (pendingOn req).slot = .pending req ∧ Binary24 (requestText req) := by
  unfold Binary24; decide

theorem witness_FromBin26Result :
    let req := assemble .fromBin26 (codes "00000000100000000000000101")
    (pendingOn req).slot = .pending req ∧ Binary26 (requestText req) := by
  unfold Binary26; decide

theorem witness_FromHexResult :
    let bare := assemble .fromHex (codes "ffFFff")
    let prefixed := assemble .fromHex (codes "0X000102")
    (pendingOn bare).slot = .pending bare ∧ HexFrom (requestText bare) 0 ∧
    (pendingOn prefixed).slot = .pending prefixed ∧ HexFrom (requestText prefixed) 2 := by
  unfold HexFrom; decide

theorem witness_FromDecResult :
    let req := assemble .fromDec (codes "255,65535")
    (pendingOn req).slot = .pending req ∧ DecimalAt (requestText req) 3 ∧ facilityNumber (requestText req) 3 ≤ 255 ∧
    cardNumber (requestText req) 3 ≤ 65535 := by
  unfold DecimalAt; decide

/-- Format failure wins over range (95_test_vectors.md, `999,x`). -/
theorem witness_malformed_dec : ¬ TextMatches .fromDec (codes "999,x") := by
  rintro ⟨k, -, h2, -, h4⟩
  have hk : k + 2 ≤ 5 := h2
  have := h4 4 (by decide) (by omega)
  revert this; decide

theorem witness_malformed_hex : ¬ TextMatches .fromHex (codes "0x0102") := by
  rintro ⟨a, ⟨-, -, h⟩ | ⟨-, h, -⟩⟩
  · have := h 1 (by decide)
    revert this; decide
  · revert h; decide

theorem witness_MalformedTextIsInvalidFormat :
    (running .fromBin24 "00000001000000000000001x").slot =
      .pending (assemble .fromBin24 (codes "00000001000000000000001x")) ∧
    ¬ TextMatches .fromBin24 (requestText (assemble .fromBin24 (codes "00000001000000000000001x"))) ∧
    ¬ TextMatches .fromBin26 (requestText (assemble .fromBin26 (codes "20000000100000000000000100"))) ∧
    Executes .fromBin24 (running .fromBin24 "x") (failureResponse .invalidFormat) ∧
    (failureResponse .invalidFormat).status = 1 :=
  ⟨rfl, by simp only [TextMatches, Binary24]; decide, by simp only [TextMatches, Binary26]; decide, rfl, rfl⟩

theorem witness_OutOfRangeByExactValue :
    let fac := assemble .fromDec (codes "256,99999")
    let card := assemble .fromDec (codes "255,65536")
    ((pendingOn fac).slot = .pending fac ∧ DecimalAt (requestText fac) 3 ∧ 255 < facilityNumber (requestText fac) 3) ∧
    ((pendingOn card).slot = .pending card ∧ DecimalAt (requestText card) 3 ∧
      facilityNumber (requestText card) 3 ≤ 255 ∧ 65535 < cardNumber (requestText card) 3) ∧
    (respond .fromDec (codes "256,0")).status = 2 ∧ (respond .fromDec (codes "0,65536")).status = 3 := by
  unfold DecimalAt; decide

theorem witness_OutOfRange_executes :
    (running .fromDec "256,0").slot = .pending (assemble .fromDec (codes "256,0")) ∧
    Executes .fromDec (running .fromDec "256,0") (failureResponse (.outOfRange .facility)) ∧
    (failureResponse (.outOfRange .facility)).status = 2 ∧
    Executes .fromDec (running .fromDec "0,65536") (failureResponse (.outOfRange .card)) ∧
    (failureResponse (.outOfRange .card)).status = 3 := ⟨rfl, rfl, rfl, rfl, rfl⟩

theorem witness_BinaryModesNeverMix :
    let a := assemble .fromBin24 (codes "10000000100000000000000100")
    let b := assemble .fromBin26 (codes "000000000000000000000000")
    ((pendingOn a).slot = .pending a ∧ (pendingOn a).inp.rst = false ∧ requestWord a = 0x00000000#29 ∧
      (requestText a).length = 26) ∧
    ((pendingOn b).slot = .pending b ∧ (pendingOn b).inp.rst = false ∧ requestWord b = 0x04000000#29 ∧
      (requestText b).length = 24) := by decide

theorem witness_EndBitsDecideWarnOnly : Binary26 (codes "11111111111111111111111111") := by
  unfold Binary26; decide

theorem witness_RenderResult :
    (running (.render ⟨1, 1, 2, 1⟩) "").slot = .pending (assemble (.render ⟨1, 1, 2, 1⟩) (codes "")) := rfl

theorem witness_RenderParityShowsAtEndsOnly :
    (⟨1, 1, 2, 0⟩ : Credential).facility = (⟨0, 1, 2, 1⟩ : Credential).facility ∧
    (⟨1, 1, 2, 0⟩ : Credential).card = (⟨0, 1, 2, 1⟩ : Credential).card := ⟨rfl, rfl⟩

theorem witness_ExecFrame : (running .fromHex "FFFFFF").slot = .pending (assemble .fromHex (codes "FFFFFF")) := rfl

theorem witness_StatusTable :
    Executes .fromHex (running .fromHex "x") (failureResponse .invalidFormat) ∧ TakesText .fromHex :=
  ⟨rfl, .inr (.inr (.inl rfl))⟩

/-- A failing response, one with a warning, and one with texts. -/
theorem witness_ZeroFill :
    (step (running .fromDec "x") = .next ((running .fromDec "x").withSlot (.done (failureResponse .invalidFormat))) ∧
      (failureResponse .invalidFormat).status ≠ 0) ∧
    ((answered (step (running .fromBin26 "00000000000000000000000000"))).map (fun r => r.warn != 0) = some true) ∧
    ((running (.render ⟨0, 0, 0, 0⟩) "").inp.rst = false ∧
      step (running (.render ⟨0, 0, 0, 0⟩) "") =
        .next ((running (.render ⟨0, 0, 0, 0⟩) "").withSlot (.done (renderResponse ⟨0, 0, 0, 0⟩))) ∧
      ¬ TextsZero (renderResponse ⟨0, 0, 0, 0⟩)) :=
  ⟨⟨rfl, by decide⟩, by decide, rfl, rfl, fun h => absurd (h.1 0 (by decide)) (by decide)⟩

/-- Equal texts in arrays that differ beyond them; and a word that takes no text. -/
theorem witness_ResponseOfRequestAlone :
    let a : Request := ⟨3, 0, 3, codes "1,2"⟩
    let b : Request := ⟨3, 0, 3, codes "1,2,junk"⟩
    let c : Request := ⟨4, 5, 0, []⟩
    let d : Request := ⟨4, 5, 9, codes "1,2"⟩
    (requestWord a = requestWord b ∧ a.txtLen = b.txtLen ∧ ∀ i, i < a.txtLen → a.txt.getD i 0 = b.txt.getD i 0) ∧
    requestWord c = requestWord d ∧ decode (requestWord c) = .ok (.render (credentialOf 5)) := by decide

theorem witness_render_takes_no_text (k : Credential) : ¬ TakesText (.render k) := by
  rintro (h | h | h | h) <;> cases h

theorem witness_AnsweredInOrder :
    (∀ p ∈ [presenting (assemble .fromDec (codes "1,2"))], p.rst = false) ∧ State.reset.slot = .empty := by decide

theorem witness_ResetDropsTransaction : resetting.rst = true := rfl

theorem witness_TransactionCompletes :
    let p := presenting (assemble .fromDec (codes "1,2"))
    State.reset.slot = .empty ∧ p.rst = false ∧ p.reqValid = true ∧ p.respReady = true ∧ p.req.wf = true := by decide

theorem witness_FormsAgree :
    DecimalSpells (codes "123,45678") 123 45678 ∧ HexFrom (codes "0x7bb26e") 2 ∧
    NibblesSpelled ((123 : Facility) ++ (45678 : Card) : BitVec 24) (codes "0x7bb26e") 2 ∧
    Binary24 (codes "011110111011001001101110") ∧
    BitsSpelled ((123 : Facility) ++ (45678 : Card) : BitVec 24) (codes "011110111011001001101110") 0 ∧
    Binary26 (codes "00111101110110010011011100") ∧
    BitsSpelled ((123 : Facility) ++ (45678 : Card) : BitVec 24) (codes "00111101110110010011011100") 1 := by
  refine ⟨⟨3, ?_⟩, ?_⟩
  · unfold DecimalAt; decide
  · unfold HexFrom NibblesSpelled Binary24 Binary26 BitsSpelled; decide

theorem witness_FormatterRoundTrip :
    (TakesText .fromBin26 ∧ (respond .fromBin26 (codes "00000000100000000000000100")).status = 0) ∧
    DecimalSpells (codes "1,2") 1 2 := by
  refine ⟨⟨.inr (.inl rfl), by decide⟩, 1, ?_⟩
  unfold DecimalAt; decide

theorem witness_DecimalThenRenderRecovers : DecimalSpells (codes "007,00012") 7 12 := by
  refine ⟨3, ?_⟩
  unfold DecimalAt; decide

theorem witness_AssembledLineDecodes :
    assembleLine (codes "from_hex \"0x000102\"") = some (assemble .fromHex (codes "0x000102")) ∧ TakesText .fromHex ∧
    assembleLine (codes "COMPUTE_PARITY 65538") = some (assemble (.computeParity 65538) []) ∧
    ∀ p, ¬ TakesText (.computeParity p) :=
  ⟨by decide, .inr (.inr (.inl rfl)), by decide, fun p h => by rcases h with h | h | h | h <;> cases h⟩

theorem witness_ConvertExpansion :
    (respond (formInstr .dec) (codes "256,0")).status ≠ 0 ∧ (respond (formInstr .dec) (codes "1,2")).status = 0 := by decide

theorem literal_decimal :
    LiteralSpells (codes "255") (255 : Facility).toNat ∧ LiteralSpells (codes "65535") (65535 : Card).toNat ∧
    LiteralSpells (codes "0") (0 : Bit).toNat := by
  refine ⟨.inl ?_, .inl ?_, .inl ?_⟩ <;> unfold DigitsSpell <;> decide

theorem literal_hex :
    LiteralSpells (codes "0x3FFFFFF") (0x3FFFFFF : Frame).toNat ∧
    LiteralSpells (codes "0xffffff") (0xFFFFFF : Payload).toNat := by
  refine ⟨.inr (.inl ⟨codes "3FFFFFF", rfl, ?_⟩), .inr (.inl ⟨codes "ffffff", rfl, ?_⟩)⟩ <;>
    unfold DigitsSpell <;> decide

theorem literal_sized : LiteralSpells (codes "1'b1") (1 : Bit).toNat := by
  refine .inr (.inr ⟨codes "1", codes "1", rfl, ?_⟩)
  unfold DigitsSpell; decide

/-- Literals of each clause of the statement, at the largest operand its field holds and at zero. -/
theorem witness_NumericLineIsItsOperand :
    LiteralSpells (codes "0x3FFFFFF") (0x3FFFFFF : Frame).toNat ∧
    (LiteralSpells (codes "1'b1") (1 : Bit).toNat ∧ LiteralSpells (codes "255") (255 : Facility).toNat ∧
      LiteralSpells (codes "65535") (65535 : Card).toNat ∧ LiteralSpells (codes "0") (0 : Bit).toNat) ∧
    LiteralSpells (codes "0xffffff") (0xFFFFFF : Payload).toNat :=
  ⟨literal_hex.1, ⟨literal_sized, literal_decimal.1, literal_decimal.2.1, literal_decimal.2.2⟩, literal_hex.2⟩

end Sys2Proof.Tests
end

section
/-! PROOFS. The block's state and its steps (spec/10_state.md, spec/70_reset_and_hazards.md): the signals at the
ports, one rule per step, the shapes a response can have, and the statements of the family that follow from them. -/

namespace Sys2Proof.Machine

/-! ### The shapes of responses -/

/-- The texts of a response that writes none are zero throughout (R36). -/
theorem textsZero_of_replicate {r : Response} (hb : r.binTxt = Vector.replicate 26 0)
    (hh : r.hexTxt = Vector.replicate 6 0) : TextsZero r := by
  simp [TextsZero, hb, hh]

@[simp] theorem textsZero_zeroResponse : TextsZero zeroResponse := textsZero_of_replicate rfl rfl

@[simp] theorem textsZero_okResponse (res : BitVec 26) (warn : BitVec 2) : TextsZero (okResponse res warn) :=
  textsZero_of_replicate rfl rfl

@[simp] theorem textsZero_failureResponse (f : Failure) : TextsZero (failureResponse f) :=
  textsZero_of_replicate rfl rfl

@[simp] theorem bareStatus_zeroResponse : BareStatus zeroResponse 0 :=
  ⟨rfl, rfl, rfl, textsZero_zeroResponse⟩

@[simp] theorem bareStatus_failureResponse (f : Failure) : BareStatus (failureResponse f) (statusOf f) :=
  ⟨rfl, rfl, rfl, textsZero_failureResponse f⟩

/-! ### The signals at the ports -/

/-- `req_ready` with reset low (R31). -/
theorem reqReady_iff_empty {s : State} (hr : s.inp.rst = false) : reqReady s = true ↔ s.slot = .empty := by
  simp [reqReady, hr]

/-- `resp_valid` in every state (R33, R221). -/
theorem respValid_iff {s : State} : respValid s = true ↔ s.inp.rst = false ∧ ∃ r, s.slot = .done r := by
  unfold respValid
  split
  case h_1 r hs => simp [hs]
  case h_2 hs => simpa using fun _ r => hs r

/-- The port shows the response that the slot holds (R33). -/
theorem respOut_done {s : State} {r : Response} (hr : s.inp.rst = false) (h : s.slot = .done r) : respOut s = r := by
  simp [respOut, hr, h]

/-- While `resp_valid = 0` the response fields are zero (R33). -/
theorem respOut_of_not_valid {s : State} (h : respValid s = false) : respOut s = zeroResponse := by
  unfold respOut
  split
  case h_1 r hs =>
    have hrst : s.inp.rst = true := by simpa [respValid, hs] using h
    simp [hrst]
  case h_2 => rfl

/-! ### What each step does -/

/-- The accept step with a request that the port can carry (R31). -/
theorem acceptStep_request {s : State} (hv : s.inp.reqValid = true) (hw : s.inp.req.wf = true) :
    acceptStep s = .next (s.withSlot (.pending s.inp.req)) := by
  simp [acceptStep, hv, hw]

/-- The accept step without a request (R31). -/
theorem acceptStep_wait {s : State} (hv : s.inp.reqValid = false) : acceptStep s = .next s := by
  simp [acceptStep, hv]

/-- The deliver step with a client that is ready (R33). -/
theorem deliverStep_ready {s : State} (h : s.inp.respReady = true) : deliverStep s = .next (s.withSlot .empty) := by
  simp [deliverStep, h]

/-- The deliver step with a client that is not ready (R225). -/
theorem deliverStep_wait {s : State} (h : s.inp.respReady = false) : deliverStep s = .next s := by
  simp [deliverStep, h]

/-- Every meaning answers a pending request with the response it forms from the text (R32). -/
theorem exec_pending {s : State} {req : Request} (i : Instr) (h : s.slot = .pending req) :
    exec i s = .next (s.withSlot (.done (respond i (requestText req)))) := by
  rw [exec_eq_execute, execute_pending h]

/-- The execute step runs the instruction that the word decodes to (R77). -/
theorem executeStep_decoded {req : Request} {i : Instr} (s : State) (hd : decode (requestWord req) = .ok i) :
    executeStep req s = exec i s := by
  simp [executeStep, hd]

/-- The response to a word that is an operation (R77). -/
theorem answer_decoded {req : Request} {i : Instr} (hd : decode (requestWord req) = .ok i) :
    answer req = respond i (requestText req) := by
  simp [answer, hd]

/-- The response to a word that is no operation (R78). -/
theorem answer_illegal {req : Request} {e : Reject} (hd : decode (requestWord req) = .error e) :
    answer req = failureResponse .illegalRequest := by
  simp [answer, hd]

/-- The execute step answers every pending request with the function of the request (R32, R17). -/
theorem executeStep_pending {s : State} {req : Request} (h : s.slot = .pending req) :
    executeStep req s = .next (s.withSlot (.done (answer req))) := by
  cases hd : decode (requestWord req) with
  | ok i => rw [executeStep_decoded s hd, exec_pending i h, answer_decoded hd]
  | error e => rw [answer_illegal hd]; simp [executeStep, hd, takeFailure, execute_pending h]

/-- A step on a pending request, reset low (R32). -/
theorem step_answers {s : State} {req : Request} (hr : s.inp.rst = false) (h : s.slot = .pending req) :
    step s = .next (s.withSlot (.done (answer req))) := by
  rw [step_pending hr h, executeStep_pending h]

/-- A step that accepts the request at the port (R31). -/
theorem step_accepts {s : State} (hr : s.inp.rst = false) (h : s.slot = .empty) (hv : s.inp.reqValid = true)
    (hw : s.inp.req.wf = true) : step s = .next (s.withSlot (.pending s.inp.req)) := by
  rw [step_empty hr h, acceptStep_request hv hw]

/-- A step that hands over the response (R33). -/
theorem step_delivers {s : State} {r : Response} (hr : s.inp.rst = false) (h : s.slot = .done r)
    (hready : s.inp.respReady = true) : step s = .next (s.withSlot .empty) := by
  rw [step_done hr h, deliverStep_ready hready]

/-- A step at which the response stays (R225). -/
theorem step_holds_response {s : State} {r : Response} (hr : s.inp.rst = false) (h : s.slot = .done r)
    (hready : s.inp.respReady = false) : step s = .next s := by
  rw [step_done hr h, deliverStep_wait hready]

/-! ### A busy block -/

/-- The slot after a step, where the slot before it was not empty: it takes `rst` and `resp_ready` and no other
port. -/
def busyNext (rst respReady : Bool) : Slot → Slot
  | .empty => .empty
  | .pending req => if rst then .empty else .done (answer req)
  | .done r => if rst || respReady then .empty else .done r

/-- A busy block answers every step, and its next slot is `busyNext` of the old one. -/
theorem step_busy {s : State} (h : s.slot ≠ .empty) :
    step s = .next (s.withSlot (busyNext s.inp.rst s.inp.respReady s.slot)) := by
  cases hs : s.slot with
  | empty => exact absurd hs h
  | pending req =>
    cases hr : s.inp.rst with
    | true => simp [step_rst hr, busyNext]
    | false => simp [step_answers hr hs, busyNext]
  | done r =>
    cases hr : s.inp.rst with
    | true => simp [step_rst hr, busyNext]
    | false =>
      cases hready : s.inp.respReady with
      | true => simp [step_delivers hr hs hready, busyNext]
      | false => simp [step_holds_response hr hs hready, busyNext, withSlot_self hs]

/-! ### The shapes of the responses that the operations form -/

/-- A credential without supplied parity bits carries no warning (R131). -/
theorem buildCredential_warn {tr : ParseTriple} (h : tr.supplied = none) : (buildCredential tr).2 = 0 := by
  simp [buildCredential, h]

/-- The parser of 24 binary digits supplies no parity bits (R132). -/
theorem parseBin24_supplied {t : Text} {tr : ParseTriple} (h : parseBin24 t = .ok tr) : tr.supplied = none := by
  unfold parseBin24 at h
  split at h
  · cases h; rfl
  · cases h

/-- The parser of hex digits supplies no parity bits (R135). -/
theorem parseHex_supplied {t : Text} {tr : ParseTriple} (h : parseHex t = .ok tr) : tr.supplied = none := by
  unfold parseHex at h
  split at h
  · cases h; rfl
  · cases h

/-- The parser of decimal pairs supplies no parity bits (R136). -/
theorem parseDec_supplied {t : Text} {tr : ParseTriple} (h : parseDec t = .ok tr) : tr.supplied = none := by
  unfold parseDec at h
  split at h
  · split at h
    · cases h
    · split at h
      · cases h
      · cases h; rfl
  · cases h

/-- What the response to a word that decodes as `d` can be: a bare failure; a result without texts, whose warnings
are zero but for FROM_BIN26; or RENDER's texts (R35, R36). -/
inductive Shaped (d : Except Reject Instr) : Response → Prop where
  | failure (f : Failure) : Shaped d (failureResponse f)
  | result (res : BitVec 26) (warn : BitVec 2) (h : warn ≠ 0 → d = .ok .fromBin26) : Shaped d (okResponse res warn)
  | texts (k : Credential) (h : d = .ok (.render k)) : Shaped d (renderResponse k)

/-- A parser's response is a bare failure or a result, and only supplied parity bits give it warnings. -/
theorem parserResponse_shaped {d : Except Reject Instr} {outcome : Except Failure ParseTriple}
    (h : ∀ tr, outcome = .ok tr → tr.supplied ≠ none → d = .ok .fromBin26) : Shaped d (parserResponse outcome) := by
  cases outcome with
  | ok tr => exact .result _ _ fun hw => h tr rfl fun hn => hw (buildCredential_warn hn)
  | error f => exact .failure f

/-- Every response an operation forms has one of the three shapes. -/
theorem respond_shaped (i : Instr) (t : Text) : Shaped (.ok i) (respond i t) := by
  cases i with
  | fromBin24 => exact parserResponse_shaped fun _ hp hs => absurd (parseBin24_supplied hp) hs
  | fromBin26 => exact parserResponse_shaped fun _ _ _ => rfl
  | fromHex => exact parserResponse_shaped fun _ hp hs => absurd (parseHex_supplied hp) hs
  | fromDec => exact parserResponse_shaped fun _ hp hs => absurd (parseDec_supplied hp) hs
  | render k => exact .texts k rfl
  | computeParity p => exact .result _ _ (absurd rfl)
  | validateParity se so ex => exact .result _ _ (absurd rfl)

/-- Every answer has one of the three shapes, that to an illegal word included. -/
theorem answer_shaped (req : Request) : Shaped (decode (requestWord req)) (answer req) := by
  cases hd : decode (requestWord req) with
  | ok i => rw [answer_decoded hd]; exact respond_shaped i (requestText req)
  | error e => rw [answer_illegal hd]; exact .failure .illegalRequest

/-- Zero fill of the response `r` to a word that decodes as `d` (R36). -/
def ZeroFilled (d : Except Reject Instr) (r : Response) : Prop :=
  (r.status ≠ 0 → BareStatus r r.status) ∧ (r.warn ≠ 0 → r.status = 0 ∧ d = .ok .fromBin26) ∧
    (¬ TextsZero r → r.status = 0 ∧ ∃ k, d = .ok (.render k))

/-- Each of the three shapes is zero filled. -/
theorem Shaped.zeroFilled {d : Except Reject Instr} {r : Response} (h : Shaped d r) : ZeroFilled d r := by
  cases h with
  | failure f =>
    exact ⟨fun _ => bareStatus_failureResponse f, absurd rfl, fun ht => absurd (textsZero_failureResponse f) ht⟩
  | result res warn hwarn =>
    exact ⟨absurd rfl, fun hw => ⟨rfl, hwarn hw⟩, fun ht => absurd (textsZero_okResponse res warn) ht⟩
  | texts k hk => exact ⟨absurd rfl, absurd rfl, fun _ => ⟨rfl, k, hk⟩⟩

/-! ### Runs under a client -/

/-- A request is accepted at a step that accepts it (R31). -/
theorem acceptedNow_request {s : State} (hr : s.inp.rst = false) (h : s.slot = .empty)
    (hv : s.inp.reqValid = true) (hw : s.inp.req.wf = true) : acceptedNow s = some s.inp.req := by
  simp [acceptedNow, (reqReady_iff_empty hr).2 h, hv, hw]

/-- A busy block accepts nothing (R31). -/
theorem acceptedNow_busy {s : State} (h : s.slot ≠ .empty) : acceptedNow s = none := by
  simp [acceptedNow, reqReady, h]

/-- A response is delivered at a step that hands it over (R33). -/
theorem deliveredNow_done {s : State} {r : Response} (hr : s.inp.rst = false) (h : s.slot = .done r)
    (hready : s.inp.respReady = true) : deliveredNow s = some r := by
  simp [deliveredNow, respValid_iff.2 ⟨hr, r, h⟩, respOut_done hr h, hready]

/-- Without a response in the slot nothing is delivered (R33). -/
theorem deliveredNow_not_done {s : State} (h : ∀ r, s.slot ≠ .done r) : deliveredNow s = none := by
  have hv : ¬ respValid s = true := fun hv => by
    obtain ⟨-, r, hs⟩ := respValid_iff.1 hv
    exact h r hs
  simp [deliveredNow, hv]

/-- A run whose first step answers. -/
theorem runClient_cons {s s' : State} {p : Inputs} (ps : List Inputs) (h : step (s.driven p) = .next s') :
    runClient s (p :: ps) =
      ⟨(runClient s' ps).final, (acceptedNow (s.driven p)).toList ++ (runClient s' ps).accepted,
        (deliveredNow (s.driven p)).toList ++ (runClient s' ps).delivered⟩ := by
  simp [runClient, h]

/-- A run that begins with the accept step: the request is the first one accepted. -/
theorem runClient_accepts {s : State} {p : Inputs} (ps : List Inputs) (h : s.slot = .empty) (hr : p.rst = false)
    (hv : p.reqValid = true) (hw : p.req.wf = true) :
    runClient s (p :: ps) =
      { runClient ((s.driven p).withSlot (.pending p.req)) ps with
        accepted := p.req :: (runClient ((s.driven p).withSlot (.pending p.req)) ps).accepted } := by
  have hd : deliveredNow (s.driven p) = none := deliveredNow_not_done fun r => by simp [h]
  rw [runClient_cons ps (step_accepts hr h hv hw), acceptedNow_request (s := s.driven p) hr h hv hw, hd]
  rfl

/-- A run that begins with the execute step: nothing crosses the ports. -/
theorem runClient_executes {s : State} {p : Inputs} {req : Request} (ps : List Inputs) (h : s.slot = .pending req)
    (hr : p.rst = false) :
    runClient s (p :: ps) = runClient ((s.driven p).withSlot (.done (answer req))) ps := by
  have ha : acceptedNow (s.driven p) = none := acceptedNow_busy (by simp [h])
  have hd : deliveredNow (s.driven p) = none := deliveredNow_not_done fun r => by simp [h]
  rw [runClient_cons ps (step_answers hr h), ha, hd]
  rfl

/-- A run that begins with the deliver step: the response is the first one delivered. -/
theorem runClient_delivers {s : State} {p : Inputs} {r : Response} (ps : List Inputs) (h : s.slot = .done r)
    (hr : p.rst = false) (hready : p.respReady = true) :
    runClient s (p :: ps) =
      { runClient ((s.driven p).withSlot .empty) ps with
        delivered := r :: (runClient ((s.driven p).withSlot .empty) ps).delivered } := by
  have ha : acceptedNow (s.driven p) = none := acceptedNow_busy (by simp [h])
  rw [runClient_cons ps (step_delivers hr h hready), ha,
    deliveredNow_done (s := s.driven p) hr h hready]
  rfl

/-! ### The statements -/

/-- Settles O11: the next slot of a busy block is `busyNext`, which the request port does not enter. -/
theorem busyBlockIgnoresRequestPort : Obligations.BusyBlockIgnoresRequestPort := by
  intro s p q hbusy hrst hready
  refine ⟨busyNext p.rst p.respReady s.slot, step_busy (s := s.driven p) hbusy, ?_⟩
  rw [hrst, hready]
  exact step_busy (s := s.driven q) hbusy

/-- Settles O40: the response is the request's answer, and each shape an answer can have is zero filled. -/
theorem zeroFill : Obligations.ZeroFill := by
  intro s req r hs hr hstep
  have hanswer : answer req = r := by
    rw [step_answers hr hs] at hstep
    exact Slot.done.inj (withSlot_inj (Host.Outcome.next.inj hstep))
  exact hanswer ▸ (answer_shaped req).zeroFilled

/-- Settles O7. -/
theorem stepRunsDecoded : Obligations.StepRunsDecoded := by
  intro s req i hs hr hd
  rw [step_pending hr hs, executeStep_decoded s hd]

/-- Settles O8: the slot is empty after reset, so the block is ready and shows no response. -/
theorem resetState : Obligations.ResetState := by
  intro p hr
  have hvalid : respValid (State.reset.driven p) = false := by simp [respValid]
  refine ⟨reset_slot, (reqReady_iff_empty hr).2 reset_slot, hvalid, ?_⟩
  rw [respOut_of_not_valid hvalid]
  exact bareStatus_zeroResponse

/-- Settles O10. -/
theorem acceptTakesPortRequest : Obligations.AcceptTakesPortRequest := by
  intro s hr
  refine ⟨reqReady_iff_empty hr, step_accepts hr, fun hs hv => ?_⟩
  rw [step_empty hr hs, acceptStep_wait hv]

/-- Settles O12. -/
theorem deliverHandsOverResponse : Obligations.DeliverHandsOverResponse := by
  intro s
  refine ⟨fun hr => by simp [respValid_iff, hr], fun r hr hs => ?_, fun hvalid => ?_⟩
  · exact ⟨respOut_done hr hs, step_delivers hr hs, step_holds_response hr hs⟩
  · rw [respOut_of_not_valid hvalid]
    exact bareStatus_zeroResponse

/-- Settles O13. -/
theorem pendingIsAnswered : Obligations.PendingIsAnswered :=
  fun _ _ hs hr => step_answers hr hs

/-- Settles O15: every meaning is the execute step, which is enabled on a pending request only. -/
theorem execNeedsPendingRequest : Obligations.ExecNeedsPendingRequest := by
  intro i s hs
  rw [exec_eq_execute, execute_not_pending hs]

/-- Settles O18: the slot is empty after reset, and the invariant asks nothing of an empty slot. -/
theorem resetHasInv : Obligations.ResetHasInv := by
  change Slot.good .empty
  trivial

/-- Settles O38. -/
theorem execFrame : Obligations.ExecFrame :=
  fun i _ _ hs => ⟨exec_pending i hs, withSlot_inp _ _⟩

/-- Settles O44: the run is the accept step, the execute step and the deliver step, in that order. -/
theorem transactionCompletes : Obligations.TransactionCompletes := by
  intro s p hs hr hv hready hw
  rw [runClient_accepts [p, p] hs hr hv hw, runClient_executes [p] (withSlot_slot _ _) hr,
    runClient_delivers [] (withSlot_slot _ _) hr hready]
  exact ⟨rfl, rfl, rfl⟩

end Sys2Proof.Machine
end

section
/-! PROOFS. The request port and the order of transactions (spec/20_memory.md): what one step can do, that a step
keeps the invariant of the slot, that the response depends on the request alone, and that a run delivers the answers
in the order of the requests. -/

namespace Sys2Proof.Machine

/-! ### What a request port can carry -/

/-- A text of 31 characters fits at every width of `txt_len` that R11 allows. -/
theorem thirtyOne_le_textMax : 31 ≤ Config.textMax := by
  have hwidth : 5 ≤ Config.lenw := Nat.le_add_right 5 Config.lenwAbove
  have hpow : 2 ^ 5 ≤ 2 ^ Config.lenw := Nat.pow_le_pow_right (by decide) hwidth
  exact Nat.sub_le_sub_right hpow 1

/-- The check of a request is the bound of R52 on its `txt_len`. -/
theorem request_wf_iff {req : Request} : req.wf = true ↔ req.txtLen ≤ Config.textMax := by
  have hmax := thirtyOne_le_textMax
  simp only [Request.wf, Bool.or_eq_true, decide_eq_true_eq]
  omega

/-- The accept step with a request that the port cannot carry (R52). -/
theorem acceptStep_overlong {s : State} (hv : s.inp.reqValid = true) (hw : s.inp.req.wf = false) :
    acceptStep s = .refused .textTooLong := by
  simp [acceptStep, hv, hw]

/-! ### What one step can do -/

/-- The next states of `s`, one constructor for each kind of step (R220, R31 to R33, R225). -/
inductive StepsTo (s : State) : State → Prop where
  | reset (hr : s.inp.rst = true) : StepsTo s (s.withSlot .empty)
  | idle (hr : s.inp.rst = false) (hs : s.slot = .empty) (hv : s.inp.reqValid = false) : StepsTo s s
  | accept (hr : s.inp.rst = false) (hs : s.slot = .empty) (hv : s.inp.reqValid = true)
      (hw : s.inp.req.wf = true) : StepsTo s (s.withSlot (.pending s.inp.req))
  | execute (req : Request) (hr : s.inp.rst = false) (hs : s.slot = .pending req) :
      StepsTo s (s.withSlot (.done (answer req)))
  | hold (resp : Response) (hr : s.inp.rst = false) (hs : s.slot = .done resp)
      (hready : s.inp.respReady = false) : StepsTo s s
  | deliver (resp : Response) (hr : s.inp.rst = false) (hs : s.slot = .done resp)
      (hready : s.inp.respReady = true) : StepsTo s (s.withSlot .empty)

/-- The answers of the accept step on an empty slot. -/
theorem stepsTo_of_acceptStep {s t : State} (hr : s.inp.rst = false) (hs : s.slot = .empty)
    (h : acceptStep s = .next t) : StepsTo s t := by
  cases hv : s.inp.reqValid with
  | false =>
    rw [acceptStep_wait hv] at h
    cases h
    exact .idle hr hs hv
  | true =>
    cases hw : s.inp.req.wf with
    | false =>
      rw [acceptStep_overlong hv hw] at h
      cases h
    | true =>
      rw [acceptStep_request hv hw] at h
      cases h
      exact .accept hr hs hv hw

/-- The answers of the deliver step on a slot that holds a response. -/
theorem stepsTo_of_deliverStep {s t : State} {resp : Response} (hr : s.inp.rst = false) (hs : s.slot = .done resp)
    (h : deliverStep s = .next t) : StepsTo s t := by
  cases hready : s.inp.respReady with
  | false =>
    rw [deliverStep_wait hready] at h
    cases h
    exact .hold resp hr hs hready
  | true =>
    rw [deliverStep_ready hready] at h
    cases h
    exact .deliver resp hr hs hready

/-- All that a step can do: if it answers a next state, it is one of the six. -/
theorem step_cases {s t : State} (h : step s = .next t) : StepsTo s t := by
  cases hr : s.inp.rst with
  | true =>
    rw [step_rst hr] at h
    cases h
    exact .reset hr
  | false =>
    cases hs : s.slot with
    | empty => exact stepsTo_of_acceptStep hr hs (step_empty hr hs ▸ h)
    | pending req =>
      rw [step_answers hr hs] at h
      cases h
      exact .execute req hr hs
    | done resp => exact stepsTo_of_deliverStep hr hs (step_done hr hs ▸ h)

/-! ### Every answer is a response the block can give -/

/-- A character array that is zero at every position passes the check of R36. -/
theorem allZero_of_getElem {n : Nat} {v : Vector Code n} (h : ∀ i (hi : i < n), v[i] = 0) :
    allZero v.toList = true := by
  rw [allZero, List.all_eq_true]
  intro c hc
  obtain ⟨i, hi, rfl⟩ := List.getElem_of_mem hc
  simpa using h i (by simpa using hi)

/-- A response without texts is one the block can give, if it is a success or a bare failure of R79. -/
theorem response_wf_of_textsZero {r : Response} (htexts : TextsZero r)
    (h : r.status = 0 ∨ r.status.toNat ≤ 4 ∧ r.res = 0 ∧ r.warn = 0) : r.wf = true := by
  obtain ⟨hbin, hhex⟩ := htexts
  have hbin' := allZero_of_getElem hbin
  have hhex' := allZero_of_getElem hhex
  rcases h with hok | ⟨hle, hres, hwarn⟩
  · simp [Response.wf, Response.statusLegal, Response.failureBare, Response.textsLegal, hbin', hhex', hok]
  · simp [Response.wf, Response.statusLegal, Response.failureBare, Response.textsLegal, hbin', hhex', hle, hres, hwarn]

/-- The failures have the status codes 1 to 4 (R79). -/
theorem statusOf_toNat_le (f : Failure) : (statusOf f).toNat ≤ 4 := by
  cases f with
  | invalidFormat => decide
  | outOfRange field => cases field <;> decide
  | illegalRequest => decide

/-- A binary output character is `0` or `1` (R83, R176). -/
theorem isBinOut_binChar (b : Bit) : isBinOut (binChar b) = true := by
  revert b; decide

/-- A hexadecimal output character is a digit or an uppercase letter (R83, R176). -/
theorem isHexOut_hexChar (h : BitVec 4) : isHexOut (hexChar h) = true := by
  revert h; decide

/-- Every character of the binary string is one `RENDER` may write. -/
theorem binString_all_isBinOut (f : Frame) : (binString f).toList.all isBinOut = true := by
  simp [binString, isBinOut_binChar]

/-- Every character of the hexadecimal string is one `RENDER` may write. -/
theorem hexString_all_isHexOut (p : Payload) : (hexString p).toList.all isHexOut = true := by
  simp [hexString, isHexOut_hexChar]

/-- The texts of `RENDER` are well written, and the two top bits of its `res` are zero (R173). -/
theorem renderResponse_textsLegal (k : Credential) : (renderResponse k).textsLegal = true := by
  have hbin : (renderResponse k).binTxt.toList.all isBinOut = true := binString_all_isBinOut _
  have hhex : (renderResponse k).hexTxt.toList.all isHexOut = true := hexString_all_isHexOut _
  have htop : (renderResponse k).res.extractLsb' 24 2 = 0 := extract_append_hi 0#2 (k.facility ++ k.card)
  simp [Response.textsLegal, hbin, hhex, htop]

theorem renderResponse_wf (k : Credential) : (renderResponse k).wf = true := by
  simp [Response.wf, Response.statusLegal, Response.failureBare, renderResponse_textsLegal]

/-- Each of the three shapes of a response is one the block can give. -/
theorem Shaped.wf {d : Except Reject Instr} {r : Response} (h : Shaped d r) : r.wf = true := by
  cases h with
  | failure f =>
    exact response_wf_of_textsZero (textsZero_failureResponse f) (.inr ⟨statusOf_toNat_le f, rfl, rfl⟩)
  | result res warn _ => exact response_wf_of_textsZero (textsZero_okResponse res warn) (.inl rfl)
  | texts k _ => exact renderResponse_wf k

/-! ### The response depends on the request alone -/

/-- An operation that takes no text answers alike on all texts (R34). -/
theorem respond_of_not_takesText {i : Instr} (h : ¬ TakesText i) (t u : Text) : respond i t = respond i u := by
  cases i with
  | fromBin24 => exact absurd (.inl rfl) h
  | fromBin26 => exact absurd (.inr (.inl rfl)) h
  | fromHex => exact absurd (.inr (.inr (.inl rfl))) h
  | fromDec => exact absurd (.inr (.inr (.inr rfl))) h
  | render k => rfl
  | computeParity p => rfl
  | validateParity se so ex => rfl

/-- Requests of one word and one text have one answer. -/
theorem answer_congr {a b : Request} (hword : requestWord a = requestWord b) (htext : requestText a = requestText b) :
    answer a = answer b := by
  simp only [answer, hword, htext]

/-- Requests of one word that takes no text have one answer. -/
theorem answer_congr_of_no_text {a b : Request} (hword : requestWord a = requestWord b)
    (h : ∀ i, decode (requestWord a) = .ok i → ¬ TakesText i) : answer a = answer b := by
  cases hd : decode (requestWord a) with
  | ok i =>
    rw [answer_decoded hd, answer_decoded (hword ▸ hd)]
    exact respond_of_not_takesText (h i hd) _ _
  | error e => rw [answer_illegal hd, answer_illegal (hword ▸ hd)]

/-! ### Nothing owed is lost, and nothing is answered out of order -/

/-- The client that drives other ports is owed the same. -/
@[simp] theorem owed_driven (s : State) (p : Inputs) : owed (s.driven p) = owed s := rfl

theorem owed_empty {s : State} (h : s.slot = .empty) : owed s = [] := by
  simp [owed, h]

theorem owed_pending {s : State} {req : Request} (h : s.slot = .pending req) : owed s = [answer req] := by
  simp [owed, h]

theorem owed_done {s : State} {resp : Response} (h : s.slot = .done resp) : owed s = [resp] := by
  simp [owed, h]

/-- The slot holds one transaction. -/
theorem owed_length_le_one (s : State) : (owed s).length ≤ 1 := by
  cases hs : s.slot with
  | empty => simp [owed_empty hs]
  | pending req => simp [owed_pending hs]
  | done resp => simp [owed_done hs]

/-- Without a request at the port nothing is accepted. -/
theorem acceptedNow_no_request {s : State} (h : s.inp.reqValid = false) : acceptedNow s = none := by
  simp [acceptedNow, h]

/-- Without a client that is ready nothing is delivered. -/
theorem deliveredNow_not_ready {s : State} (h : s.inp.respReady = false) : deliveredNow s = none := by
  simp [deliveredNow, h]

/-- Conservation over one step, reset low: what was owed and the answer of what is accepted are what is delivered and
what is owed after it, in this order. -/
theorem step_conserves_owed {s t : State} (hr : s.inp.rst = false) (h : step s = .next t) :
    owed s ++ (acceptedNow s).toList.map answer = (deliveredNow s).toList ++ owed t := by
  cases step_cases h with
  | reset hrst => simp [hr] at hrst
  | idle _ hs hv =>
    simp [acceptedNow_no_request hv, deliveredNow_not_done (s := s) (by simp [hs])]
  | accept _ hs hv hw =>
    simp [acceptedNow_request hr hs hv hw, deliveredNow_not_done (s := s) (by simp [hs]), owed_empty hs,
      owed_pending (withSlot_slot s _)]
  | execute req _ hs =>
    simp [acceptedNow_busy (s := s) (by simp [hs]), deliveredNow_not_done (s := s) (by simp [hs]), owed_pending hs,
      owed_done (withSlot_slot s _)]
  | hold resp _ hs hready =>
    simp [acceptedNow_busy (s := s) (by simp [hs]), deliveredNow_not_ready hready]
  | deliver resp _ hs hready =>
    simp [acceptedNow_busy (s := s) (by simp [hs]), deliveredNow_done hr hs hready, owed_done hs,
      owed_empty (withSlot_slot s .empty)]

/-- A run whose first step does not answer ends there: nothing crosses the ports. -/
theorem runClient_stops {s : State} {p : Inputs} (ps : List Inputs) (h : ∀ t, step (s.driven p) ≠ .next t) :
    runClient s (p :: ps) = ⟨s.driven p, [], []⟩ := by
  cases hstep : step (s.driven p) with
  | next t => exact absurd hstep (h t)
  | fault r => simp [runClient, hstep]
  | refused r => simp [runClient, hstep]

/-- Conservation over a run without reset. -/
theorem runClient_conserves_owed (ps : List Inputs) (hps : ∀ p ∈ ps, p.rst = false) (s : State) :
    owed s ++ (runClient s ps).accepted.map answer = (runClient s ps).delivered ++ owed (runClient s ps).final := by
  induction ps generalizing s with
  | nil => simp [runClient]
  | cons p ps ih =>
    obtain ⟨hp, hps⟩ := List.forall_mem_cons.1 hps
    by_cases hnext : ∃ t, step (s.driven p) = .next t
    · obtain ⟨t, ht⟩ := hnext
      have hfirst := step_conserves_owed (s := s.driven p) hp ht
      have hrest := ih hps t
      rw [owed_driven] at hfirst
      simp only [runClient_cons ps ht, List.map_append]
      calc owed s ++ ((acceptedNow (s.driven p)).toList.map answer ++ (runClient t ps).accepted.map answer)
          = (deliveredNow (s.driven p)).toList ++ (owed t ++ (runClient t ps).accepted.map answer) := by
            rw [← List.append_assoc, hfirst, List.append_assoc]
        _ = (deliveredNow (s.driven p)).toList ++ (runClient t ps).delivered ++ owed (runClient t ps).final := by
            rw [hrest, List.append_assoc]
    · rw [runClient_stops ps (not_exists.1 hnext)]
      simp

/-! ### The statements -/

/-- Settles O17: of the six kinds of step only accept and execute put something new into the slot, a request that
passed the port's check or an answer, which is always well formed. -/
theorem stepKeepsInv : Obligations.StepKeepsInv := by
  intro s t hinv hstep
  cases step_cases hstep with
  | reset _ => trivial
  | idle _ _ _ => exact hinv
  | accept _ _ _ hw => exact hw
  | execute req _ _ => exact (answer_shaped req).wf
  | hold _ _ _ _ => exact hinv
  | deliver _ _ _ _ => trivial

/-- Settles O41: each block gives its request's answer, and the two answers are the same. -/
theorem responseOfRequestAlone : Obligations.ResponseOfRequestAlone := by
  intro s u a b hs hu hsr hur hword hsame
  have hanswer : answer a = answer b := by
    rcases hsame with ⟨hlen, hchars⟩ | hnone
    · exact answer_congr hword (requestText_congr hlen hchars)
    · exact answer_congr_of_no_text hword hnone
  refine ⟨answer a, step_answers hsr hs, ?_⟩
  rw [hanswer]
  exact step_answers hur hu

/-- Settles O42: the order is conservation over the run; the count follows from it, because the slot holds one
transaction. -/
theorem answeredInOrder : Obligations.AnsweredInOrder := by
  intro s ps hps
  have hconserved := runClient_conserves_owed ps hps s
  refine ⟨hconserved, fun hs => ?_⟩
  have hlength := congrArg List.length hconserved
  simp only [owed_empty hs, List.nil_append, List.length_map, List.length_append] at hlength
  have hone := owed_length_le_one (runClient s ps).final
  omega

/-- Settles O14. -/
theorem overlongTextRefused : Obligations.OverlongTextRefused := by
  refine ⟨thirtyOne_le_textMax, fun req => request_wf_iff, fun s hs hr hv hlong => ?_⟩
  have hw : s.inp.req.wf = false := Bool.eq_false_iff.2 fun hw => absurd (request_wf_iff.1 hw) (by omega)
  rw [step_empty hr hs, acceptStep_overlong hv hw]

end Sys2Proof.Machine
end

section
/-! PROOFS. The encoding (spec/30_encoding.md): the decoder against the encoder and the operation table, the values of
characters and of decimal texts, and the lines of the assembler, with the statements of the family. -/

namespace Sys2Proof.Machine

/-! ### The frame -/

/-- The fields of a Credential's frame are its fields (R73). -/
@[simp] theorem credentialOf_frameOf (k : Credential) : credentialOf (frameOf k) = k := by
  obtain ⟨even, facility, card, odd⟩ := k
  simp only [credentialOf, Credential.mk.injEq]
  refine ⟨?_, ?_, ?_, ?_⟩
  · exact (extract_append_inside_hi _ odd 25 1 (by decide)).trans <|
      (extract_append_inside_hi _ card 24 1 (by decide)).trans (extract_append_hi even facility)
  · exact (extract_append_inside_hi _ odd 17 8 (by decide)).trans <|
      (extract_append_inside_hi _ card 16 8 (by decide)).trans (extract_append_lo even facility)
  · exact (extract_append_inside_hi _ odd 1 16 (by decide)).trans (extract_append_lo _ card)
  · exact extract_append_lo _ odd

/-- The four fields, joined in their order, are the whole frame (R73). -/
@[simp] theorem frameOf_credentialOf (f : Frame) : frameOf (credentialOf f) = f := by
  calc frameOf (credentialOf f)
      = f.extractLsb' 25 1 ++ f.extractLsb' 17 8 ++ f.extractLsb' 1 16 ++ f.extractLsb' 0 1 := rfl
    _ = f.extractLsb' 17 9 ++ f.extractLsb' 1 16 ++ f.extractLsb' 0 1 := by
        rw [extract_join (m := 1) (n := 8) f 17]
    _ = f.extractLsb' 1 25 ++ f.extractLsb' 0 1 := by rw [extract_join (m := 9) (n := 16) f 1]
    _ = f.extractLsb' 0 26 := extract_join (m := 25) (n := 1) f 0
    _ = f := extract_all f

/-! ### The must-be-zero bits -/

/-- A vector whose upper bits are zero is the zero extension of its lower bits. -/
theorem zero_append_extract {m n : Nat} {a : BitVec (m + n)} (h : a.extractLsb' n m = 0) :
    (0#m ++ a.extractLsb' 0 n : BitVec (m + n)) = a := by
  have hjoin := extract_join (m := m) (n := n) a 0
  rw [Nat.zero_add, extract_all, h] at hjoin
  exact hjoin

/-- Format P (R75): the payload is the operand exactly when the two bits above it are clear. -/
theorem payload_arg_iff {a : Arg} {p : Payload} :
    a.extractLsb' 24 2 = 0 ∧ a.extractLsb' 0 24 = p ↔ a = operandArg (.computeParity p) := by
  constructor
  · rintro ⟨hzero, rfl⟩
    exact (zero_append_extract (m := 2) (n := 24) hzero).symm
  · rintro rfl
    exact ⟨extract_append_hi 0#2 p, extract_append_lo 0#2 p⟩

/-- The four bits of format V, read from a vector that holds them (R75). -/
theorem validateOperands_append (se so ee eo : Bit) :
    validateOperands (0#22 ++ (se ++ so ++ ee ++ eo) : BitVec 26) = .validateParity se so ⟨ee, eo⟩ := by
  revert se so ee eo; decide

/-- Four single bits joined are the four lowest bits (R75). -/
theorem four_bits_join (a : Arg) :
    (a.extractLsb' 3 1 ++ a.extractLsb' 2 1 ++ a.extractLsb' 1 1 ++ a.extractLsb' 0 1 : BitVec 4) =
      a.extractLsb' 0 4 := by
  calc (a.extractLsb' 3 1 ++ a.extractLsb' 2 1 ++ a.extractLsb' 1 1 ++ a.extractLsb' 0 1 : BitVec 4)
      = a.extractLsb' 2 2 ++ a.extractLsb' 1 1 ++ a.extractLsb' 0 1 := by
        rw [extract_join (m := 1) (n := 1) a 2]
    _ = a.extractLsb' 1 3 ++ a.extractLsb' 0 1 := by rw [extract_join (m := 2) (n := 1) a 1]
    _ = a.extractLsb' 0 4 := extract_join (m := 3) (n := 1) a 0

/-- Format V (R75): the four bits are the operands exactly when the bits above them are clear. -/
theorem validate_arg_iff {a : Arg} {i : Instr} :
    a.extractLsb' 4 22 = 0 ∧ validateOperands a = i ↔
      ∃ se so ex, i = .validateParity se so ex ∧ a = operandArg i := by
  constructor
  · rintro ⟨hzero, rfl⟩
    refine ⟨_, _, _, rfl, ?_⟩
    calc a = (0#22 ++ a.extractLsb' 0 4 : BitVec 26) := (zero_append_extract (m := 22) (n := 4) hzero).symm
      _ = operandArg (validateOperands a) := by rw [← four_bits_join]; rfl
  · rintro ⟨se, so, ex, rfl, rfl⟩
    exact ⟨extract_append_hi 0#22 _, validateOperands_append se so ex.even ex.odd⟩

/-! ### The decoder's rows -/

section
variable (a : Arg)

@[simp] theorem decodeFields_zero : decodeFields 0#3 a = withZero (a == 0) .fromBin24 := rfl
@[simp] theorem decodeFields_one : decodeFields 1#3 a = withZero (a == 0) .fromBin26 := rfl
@[simp] theorem decodeFields_two : decodeFields 2#3 a = withZero (a == 0) .fromHex := rfl
@[simp] theorem decodeFields_three : decodeFields 3#3 a = withZero (a == 0) .fromDec := rfl
@[simp] theorem decodeFields_four : decodeFields 4#3 a = .ok (.render (credentialOf a)) := rfl
@[simp] theorem decodeFields_five :
    decodeFields 5#3 a = withZero (a.extractLsb' 24 2 == 0) (.computeParity (a.extractLsb' 0 24)) := rfl
@[simp] theorem decodeFields_six : decodeFields 6#3 a = withZero (a.extractLsb' 4 22 == 0) (validateOperands a) := rfl
@[simp] theorem decodeFields_seven : decodeFields 7#3 a = .error .reservedOp := rfl

end

/-- The eight values of an operation code. -/
theorem opcode_values (o : BitVec 3) :
    o = 0#3 ∨ o = 1#3 ∨ o = 2#3 ∨ o = 3#3 ∨ o = 4#3 ∨ o = 5#3 ∨ o = 6#3 ∨ o = 7#3 := by
  revert o; decide

/-- The fields that an instruction encodes to decode to it. -/
theorem decodeFields_opcode_operandArg (i : Instr) : decodeFields (opcode i) (operandArg i) = .ok i := by
  cases i with
  | fromBin24 => rfl
  | fromBin26 => rfl
  | fromHex => rfl
  | fromDec => rfl
  | render k => simp [opcode, operandArg]
  | computeParity p =>
    obtain ⟨hzero, hpayload⟩ := payload_arg_iff.2 (rfl : operandArg (.computeParity p) = _)
    simp [opcode, withZero_ok, hzero, hpayload]
  | validateParity se so ex =>
    obtain ⟨hzero, hbits⟩ := validate_arg_iff.2 ⟨se, so, ex, rfl, rfl⟩
    simp [opcode, withZero_ok, hzero, hbits]

/-- Fields of format T (R75) that pass the check of `arg` are those of the row's instruction. -/
theorem fields_of_withZero_arg {a : Arg} {i j : Instr} (hi : operandArg i = 0) (h : withZero (a == 0) i = .ok j) :
    opcode i = opcode j ∧ a = operandArg j := by
  obtain ⟨hzero, rfl⟩ := withZero_ok.1 h
  exact ⟨rfl, (beq_iff_eq.1 hzero).trans hi.symm⟩

/-- Fields that decode are those of the instruction they decode to. -/
theorem fields_of_decodeFields {o : BitVec 3} {a : Arg} {i : Instr} (h : decodeFields o a = .ok i) :
    o = opcode i ∧ a = operandArg i := by
  rcases opcode_values o with rfl | rfl | rfl | rfl | rfl | rfl | rfl | rfl
  · exact fields_of_withZero_arg (i := .fromBin24) rfl h
  · exact fields_of_withZero_arg (i := .fromBin26) rfl h
  · exact fields_of_withZero_arg (i := .fromHex) rfl h
  · exact fields_of_withZero_arg (i := .fromDec) rfl h
  · cases h
    exact ⟨rfl, (frameOf_credentialOf a).symm⟩
  · obtain ⟨hzero, rfl⟩ := withZero_ok.1 h
    exact ⟨rfl, payload_arg_iff.1 ⟨beq_iff_eq.1 hzero, rfl⟩⟩
  · obtain ⟨hzero, hbits⟩ := withZero_ok.1 h
    obtain ⟨se, so, ex, rfl, harg⟩ := validate_arg_iff.1 ⟨beq_iff_eq.1 hzero, hbits⟩
    exact ⟨rfl, harg⟩
  · cases h

/-- A word decodes to an instruction exactly when it is the instruction's own word. -/
theorem decode_eq_ok_iff {w : IWord} {i : Instr} : decode w = .ok i ↔ encode i = w := by
  constructor
  · intro h
    obtain ⟨hop, harg⟩ := fields_of_decodeFields h
    rw [encode, ← hop, ← harg, word_of_fields]
  · rintro rfl
    rw [encode, decode_append, decodeFields_opcode_operandArg]

/-- A check of must-be-zero bits fails exactly when one of them is set. -/
theorem withZero_error {n : Nat} {v : BitVec n} {i : Instr} :
    (∃ e, withZero (v == 0#n) i = .error e) ↔ v ≠ 0#n := by
  by_cases hv : v = 0#n <;> simp [withZero, hv]

/-- The reserved words of R78, by their two fields. -/
theorem decodeFields_error_iff (o : BitVec 3) (a : Arg) :
    (∃ e, decodeFields o a = .error e) ↔
      o = 7 ∨ (o.toNat ≤ 3 ∧ a ≠ 0) ∨ (o = 5 ∧ a.extractLsb' 24 2 ≠ 0) ∨ (o = 6 ∧ a.extractLsb' 4 22 ≠ 0) := by
  rcases opcode_values o with rfl | rfl | rfl | rfl | rfl | rfl | rfl | rfl <;>
    simp [withZero_error]

/-! ### The table of operations -/

/-- Every instruction's word selects the row of its mnemonic. -/
theorem encode_selects_row (i : Instr) : Laws.EncodesItsRow.Statement i := by
  cases i with
  | fromBin24 => exact Laws.EncodesItsRow.fromBin24
  | fromBin26 => exact Laws.EncodesItsRow.fromBin26
  | fromHex => exact Laws.EncodesItsRow.fromHex
  | fromDec => exact Laws.EncodesItsRow.fromDec
  | render k => exact Laws.EncodesItsRow.render k
  | computeParity p => exact Laws.EncodesItsRow.computeParity p
  | validateParity se so ex => exact Laws.EncodesItsRow.validateParity se so ex

/-- No two rows of the table have one mnemonic. -/
theorem row_eq_of_mnemonic {a b : OpRow} (ha : a ∈ opTable) (hb : b ∈ opTable) (h : a.mnemonic = b.mnemonic) :
    a = b :=
  List.inj_on_of_nodup_map (by decide : (opTable.map OpRow.mnemonic).Nodup) ha hb h

/-- What a mask of all bits from `n` up finds: the operation code, and zero `arg` bits from `n` up. -/
theorem fields_of_masked {o p : BitVec 3} {a : Arg} {n : Nat} {m : IWord}
    (hm : ∀ i, i < 29 → m.getLsbD i = decide (n ≤ i)) (hn : n ≤ 26)
    (h : (o ++ a : BitVec 29) &&& m = (p ++ 0#26 : BitVec 29)) : o = p ∧ a.extractLsb' n (26 - n) = 0 := by
  have hbit (i : Nat) (hi : i < 29) (hni : n ≤ i) :
      (o ++ a : BitVec 29).getLsbD i = (p ++ 0#26 : BitVec 29).getLsbD i := by
    have := congrArg (fun v => v.getLsbD i) h
    simpa [hm i hi, hni] using this
  constructor
  · ext i hi
    have := hbit (26 + i) (by omega) (by omega)
    simpa [word_bit, BitVec.getLsbD_eq_getElem, hi] using this
  · ext i hi
    have := hbit (n + i) (by omega) (by omega)
    have hin : n + i < 26 := by omega
    simpa [word_bit, hin] using this

/-- What the decoder knows of a word that the mask from `n` up matches: its operation code, and that the `arg` bits
from `n` up are zero. -/
theorem fields_of_selected {w m : IWord} (p : BitVec 3) (n : Nat)
    (hm : ∀ i, i < 29 → m.getLsbD i = decide (n ≤ i)) (hn : n ≤ 26) (h : w &&& m = (p ++ 0#26 : BitVec 29)) :
    decode w = decodeFields p (argField w) ∧ (argField w).extractLsb' n (26 - n) = 0 := by
  rw [← word_of_fields w] at h
  obtain ⟨hop, harg⟩ := fields_of_masked hm hn h
  exact ⟨hop ▸ rfl, harg⟩

/-- A word that a row selects passes the check of that row's must-be-zero bits. -/
theorem decode_of_selected {w m : IWord} {i : Instr} (p : BitVec 3) (n : Nat)
    (hm : ∀ i, i < 29 → m.getLsbD i = decide (n ≤ i)) (hn : n ≤ 26) (h : w &&& m = (p ++ 0#26 : BitVec 29))
    (hrow : decodeFields p (argField w) = withZero ((argField w).extractLsb' n (26 - n) == 0) i) :
    decode w = .ok i := by
  obtain ⟨hd, hzero⟩ := fields_of_selected p n hm hn h
  exact hd.trans (hrow.trans (withZero_ok.2 ⟨beq_iff_eq.2 hzero, rfl⟩))

/-- A word that a row selects decodes to an instruction of the row's mnemonic. -/
theorem decodes_of_selects_row {w : IWord} {row : OpRow} (hrow : row ∈ opTable) (h : w &&& row.mask = row.pattern) :
    ∃ i, decode w = .ok i ∧ mnemonic i = row.mnemonic := by
  simp only [opTable, List.mem_cons, List.not_mem_nil, or_false] at hrow
  rcases hrow with rfl | rfl | rfl | rfl | rfl | rfl | rfl
  · exact ⟨_, decode_of_selected 0 0 (by decide) (by decide) (h.trans (by decide)) (by rw [extract_all]; rfl), rfl⟩
  · exact ⟨_, decode_of_selected 1 0 (by decide) (by decide) (h.trans (by decide)) (by rw [extract_all]; rfl), rfl⟩
  · exact ⟨_, decode_of_selected 2 0 (by decide) (by decide) (h.trans (by decide)) (by rw [extract_all]; rfl), rfl⟩
  · exact ⟨_, decode_of_selected 3 0 (by decide) (by decide) (h.trans (by decide)) (by rw [extract_all]; rfl), rfl⟩
  · obtain ⟨hd, -⟩ := fields_of_selected 4 26 (by decide) (by decide) (h.trans (by decide))
    exact ⟨_, hd, rfl⟩
  · exact ⟨_, decode_of_selected 5 24 (by decide) (by decide) (h.trans (by decide)) rfl, rfl⟩
  · exact ⟨_, decode_of_selected 6 4 (by decide) (by decide) (h.trans (by decide)) rfl, rfl⟩

/-- A row selects exactly the words of the instructions that bear its mnemonic (R76). -/
theorem selects_row_iff {w : IWord} {row : OpRow} (hrow : row ∈ opTable) :
    w &&& row.mask = row.pattern ↔ ∃ i, decode w = .ok i ∧ mnemonic i = row.mnemonic := by
  constructor
  · exact decodes_of_selects_row hrow
  · rintro ⟨i, hd, hname⟩
    obtain ⟨row', hrow', hname', hselects⟩ := encode_selects_row i
    obtain rfl : row' = row := row_eq_of_mnemonic hrow' hrow (hname'.trans hname)
    rw [← decode_eq_ok_iff.1 hd]
    exact beq_iff_eq.1 hselects

/-! ### Character classes and values -/

theorem isBin_iff {c : Code} : isBin c = true ↔ c = 0x30 ∨ c = 0x31 := by
  simp [isBin]

theorem isDec_iff {c : Code} : isDec c = true ↔ 0x30 ≤ c.toNat ∧ c.toNat ≤ 0x39 := by
  simp [isDec]

theorem isUpperHex_iff {c : Code} : isUpperHex c = true ↔ 0x41 ≤ c.toNat ∧ c.toNat ≤ 0x46 := by
  simp [isUpperHex]

theorem isLowerHex_iff {c : Code} : isLowerHex c = true ↔ 0x61 ≤ c.toNat ∧ c.toNat ≤ 0x66 := by
  simp [isLowerHex]

theorem isHex_iff {c : Code} : isHex c = true ↔
    isDec c = true ∨ (0x41 ≤ c.toNat ∧ c.toNat ≤ 0x46) ∨ (0x61 ≤ c.toNat ∧ c.toNat ≤ 0x66) := by
  simp only [isHex, Bool.or_eq_true, isUpperHex_iff, isLowerHex_iff, or_assoc]

theorem binVal_eq_lowBit (c : Code) : binVal c = BitVec.ofBool (c.getLsbD 0) := by
  ext i hi
  obtain rfl : i = 0 := by omega
  simp [binVal]

/-- A decimal digit has its decimal value as a hex digit too (R82). -/
theorem hexVal_of_isDec {c : Code} (h : isDec c = true) : (hexVal c).toNat = decVal c := by
  have hrange := isDec_iff.1 h
  rw [hexVal, if_pos h, BitVec.toNat_ofNat, Nat.mod_eq_of_lt (by omega), decVal]

theorem hexVal_of_isUpperHex {c : Code} (h : isUpperHex c = true) : (hexVal c).toNat = c.toNat - 0x41 + 10 := by
  have hrange := isUpperHex_iff.1 h
  have hdec : ¬ isDec c = true := by rw [isDec_iff]; omega
  rw [hexVal, if_neg hdec, if_pos h, BitVec.toNat_ofNat, Nat.mod_eq_of_lt (by omega)]

theorem hexVal_of_isLowerHex {c : Code} (h : isLowerHex c = true) : (hexVal c).toNat = c.toNat - 0x61 + 10 := by
  have hrange := isLowerHex_iff.1 h
  have hdec : ¬ isDec c = true := by rw [isDec_iff]; omega
  have hupper : ¬ isUpperHex c = true := by rw [isUpperHex_iff]; omega
  rw [hexVal, if_neg hdec, if_neg hupper, BitVec.toNat_ofNat, Nat.mod_eq_of_lt (by omega)]

/-- A binary digit is a decimal digit (R82). -/
theorem isDec_of_isBin {c : Code} (h : isBin c = true) : isDec c = true := by
  rcases isBin_iff.1 h with rfl | rfl <;> rfl

/-- A binary digit has its binary value as a hex digit too (R82). -/
theorem hexVal_of_isBin {c : Code} (h : isBin c = true) : (hexVal c).toNat = (binVal c).toNat := by
  rcases isBin_iff.1 h with rfl | rfl <;> rfl

theorem hexChar_toNat (h : BitVec 4) :
    (hexChar h).toNat = if h.toNat ≤ 9 then 0x30 + h.toNat else 0x41 + (h.toNat - 10) := by
  have hlt := h.isLt
  unfold hexChar
  split <;> rw [BitVec.toNat_ofNat, Nat.mod_eq_of_lt (by omega)]

/-! ### Characters of a text -/

/-- Characters before a join. -/
theorem charAt_append_left {a b : Text} {i : Nat} (h : i < a.length) : charAt (a ++ b) i = charAt a i := by
  simp [charAt, List.getElem?_append_left h]

/-- Characters after a join. -/
@[simp] theorem charAt_append_right (a b : Text) (i : Nat) : charAt (a ++ b) (a.length + i) = charAt b i := by
  simp [charAt, List.getElem?_append_right]

@[simp] theorem charAt_cons_zero (c : Code) (t : Text) : charAt (c :: t) 0 = c := rfl

@[simp] theorem charAt_cons_succ (c : Code) (t : Text) (i : Nat) : charAt (c :: t) (i + 1) = charAt t i := rfl

/-- Characters before a cut. -/
theorem charAt_take {t : Text} {k i : Nat} (h : i < k) : charAt (t.take k) i = charAt t i := by
  simp [charAt, h]

@[simp] theorem slice_zero (t : Text) (k : Nat) : slice t 0 k = t.take k := by
  simp [slice]

@[simp] theorem slice_to_end (t : Text) (k : Nat) : slice t k t.length = t.drop k := by
  simp [slice]

/-! ### Numbers spelled by digits -/

/-- The sum of R90 with one digit more at the left end. -/
theorem placeSum_cons (base : Nat) (value : Code → Nat) (c : Code) (t : Text) :
    placeSum base value (c :: t) = value c * base ^ t.length + placeSum base value t := by
  have hrest (i : Nat) : value (charAt (c :: t) (i + 1)) * base ^ (t.length + 1 - 1 - (i + 1)) =
      value (charAt t i) * base ^ (t.length - 1 - i) := by
    rw [charAt_cons_succ, show t.length + 1 - 1 - (i + 1) = t.length - 1 - i by omega]
  simp only [placeSum, List.length_cons, List.range_succ_eq_map, List.map_cons, List.map_map, List.sum_cons,
    Function.comp_def, hrest]
  simp

/-- The fold over the digits is the sum by powers of the base, for texts of every length. -/
theorem digitsNat_eq_placeSum (base : Nat) (value : Code → Nat) (t : Text) :
    digitsNat base (t.map value) = placeSum base value t := by
  induction t with
  | nil => rfl
  | cons c t ih => rw [List.map_cons, digitsNat_cons, List.length_map, ih, placeSum_cons]

/-- The sum of R90 over a whole group is the sum by powers of ten. -/
theorem decimalSum_whole (g : Text) : decimalSum g 0 g.length = placeSum 10 decVal g := by
  simp [decimalSum, placeSum]

/-! ### The decimal pair -/

/-- The digits before a character that is no digit. -/
theorem takeWhile_isDec {f rest : Text} {c : Code} (hf : f.all isDec = true) (hc : isDec c = false) :
    (f ++ c :: rest).takeWhile isDec = f := by
  rw [List.takeWhile_append_of_pos (List.all_eq_true.1 hf)]
  simp [hc]

/-- What follows the digits begins with the first character that is no digit. -/
theorem dropWhile_isDec {f rest : Text} {c : Code} (hf : f.all isDec = true) (hc : isDec c = false) :
    (f ++ c :: rest).dropWhile isDec = c :: rest := by
  rw [List.dropWhile_append_of_pos (List.all_eq_true.1 hf)]
  simp [hc]

/-- The parser of decimal pairs splits exactly the texts of one comma between two non-empty groups of digits. -/
theorem decimalGroups_eq_some {t f c : Text} :
    decimalGroups t = some (f, c) ↔
      t = f ++ comma :: c ∧ f ≠ [] ∧ c ≠ [] ∧ f.all isDec = true ∧ c.all isDec = true := by
  constructor
  · intro h
    have htext : t.takeWhile isDec ++ t.dropWhile isDec = t := List.takeWhile_append_dropWhile
    simp only [decimalGroups] at h
    split at h
    case h_1 => cases h
    case h_2 sep rest hdrop =>
      split at h
      case isFalse => cases h
      case isTrue hgroups =>
        cases h
        simp only [Bool.and_eq_true, beq_iff_eq, Bool.not_eq_true', List.isEmpty_eq_false_iff] at hgroups
        obtain ⟨⟨⟨rfl, hf⟩, hc⟩, hall⟩ := hgroups
        exact ⟨by rw [← hdrop, htext], hf, hc, List.all_takeWhile, hall⟩
  · rintro ⟨rfl, hf, hc, hfd, hcd⟩
    have hcomma : isDec comma = false := by decide
    simp [decimalGroups, takeWhile_isDec hfd hcomma, dropWhile_isDec hfd hcomma, hf, hc, hcd]

/-- The comma of a decimal pair stands at one place: every other character is a digit. -/
theorem decimalAt_unique {t : Text} {j k : Nat} (hj : DecimalAt t j) (hk : DecimalAt t k) : j = k := by
  obtain ⟨-, hjlen, hjcomma, -⟩ := hj
  obtain ⟨-, -, -, hkdigits⟩ := hk
  by_contra hjk
  have hdigit := hkdigits j (by omega) hjk
  rw [hjcomma] at hdigit
  exact absurd hdigit (by decide)

/-- Two groups of digits around a comma are a decimal pair with its comma after the first (R87). -/
theorem decimalAt_append {f c : Text} (hf : f ≠ []) (hc : c ≠ []) (hfd : f.all isDec = true)
    (hcd : c.all isDec = true) : DecimalAt (f ++ comma :: c) f.length := by
  rw [all_charAt] at hfd hcd
  have hflen := List.length_pos_iff.2 hf
  have hclen := List.length_pos_iff.2 hc
  refine ⟨hflen, ?_, ?_, fun i hi hne => ?_⟩
  · rw [List.length_append, List.length_cons]
    omega
  · exact charAt_append_right f (comma :: c) 0
  · rw [List.length_append, List.length_cons] at hi
    rcases Nat.lt_or_gt_of_ne hne with hlt | hgt
    · rw [charAt_append_left hlt]
      exact hfd i hlt
    · obtain ⟨j, rfl⟩ : ∃ j, i = f.length + (j + 1) := ⟨i - f.length - 1, by omega⟩
      rw [charAt_append_right, charAt_cons_succ]
      exact hcd j (by omega)

/-- The digits before and after the comma of a decimal pair (R87). -/
theorem decimalAt_groups {t : Text} {k : Nat} (h : DecimalAt t k) :
    t = t.take k ++ comma :: t.drop (k + 1) ∧ t.take k ≠ [] ∧ t.drop (k + 1) ≠ [] ∧
      (t.take k).all isDec = true ∧ (t.drop (k + 1)).all isDec = true := by
  obtain ⟨hpos, hlen, hcomma, hdigits⟩ := h
  have hk : k < t.length := by omega
  refine ⟨?_, ?_, ?_, ?_, ?_⟩
  · have hat : t[k] = comma := by simpa [charAt, hk, comma] using hcomma
    rw [← hat, List.getElem_cons_drop, List.take_append_drop]
  · exact List.ne_nil_of_length_pos (by simp; omega)
  · exact List.ne_nil_of_length_pos (by simp; omega)
  · rw [all_charAt]
    intro i hi
    have hik : i < k := by simp at hi; omega
    rw [charAt_take hik]
    exact hdigits i (by omega) (by omega)
  · rw [all_charAt]
    intro i hi
    rw [charAt_drop]
    simp only [List.length_drop] at hi
    exact hdigits _ (by omega) (by omega)

/-! ### Assembled requests -/

/-- The word of an assembled request is the instruction's word (R93). -/
@[simp] theorem requestWord_assemble (i : Instr) (t : Text) : requestWord (assemble i t) = encode i := rfl

@[simp] theorem assemble_txtLen (i : Instr) (t : Text) : (assemble i t).txtLen = t.length := rfl

/-- The text of an assembled request is the text it was assembled from. -/
@[simp] theorem requestText_assemble (i : Instr) (t : Text) : requestText (assemble i t) = t := by
  refine List.ext_getElem (by simp) fun k hk _ => ?_
  have hkt : k < t.length := by simpa using hk
  simp [requestText, assemble, hkt]

theorem decode_assemble (i : Instr) (t : Text) : decode (requestWord (assemble i t)) = .ok i :=
  decode_eq_ok_iff.2 rfl

/-- The block's answer to an assembled request is the instruction's response to the text. -/
theorem answer_assemble (i : Instr) (t : Text) : answer (assemble i t) = respond i t := by
  rw [answer_decoded (decode_assemble i t), requestText_assemble]

/-- The text operations have no numeric operand (R75). -/
theorem operandArg_of_takesText {i : Instr} (h : TakesText i) : operandArg i = 0 := by
  rcases h with rfl | rfl | rfl | rfl <;> rfl

/-- The row of an instruction stands in the table at its operation code (R76). -/
theorem opTable_opcode (i : Instr) :
    ∃ row, opTable[(opcode i).toNat]? = some row ∧ row.mnemonic = mnemonic i := by
  cases i <;> exact ⟨_, rfl, rfl⟩

/-! ### What a line that is read stands for -/

/-- The text `t` that an operand gives the operation: that between the quotation marks, or none. -/
def OperandText (i : Instr) (t operand : Text) : Prop :=
  (TakesText i ∧ quotedText operand = some t) ∨ (¬ TakesText i ∧ t = [])

/-- What it says of a line to be the request of an instruction: the line names its operation code, and the operand
gives its text. -/
def LineReads (line : Text) (i : Instr) (t : Text) : Prop :=
  namedOp (lineName line) = some (opcode i).toNat ∧ OperandText i t (lineOperand line)

/-- The line of a text operation, once its operand is read. -/
theorem lineReads_text {line : Text} {i : Instr} {r : Request} (hi : TakesText i)
    (hop : namedOp (lineName line) = some (opcode i).toNat)
    (h : (quotedText (lineOperand line)).map (assemble i) = some r) :
    ∃ i t, r = assemble i t ∧ LineReads line i t := by
  obtain ⟨t, ht, rfl⟩ := Option.map_eq_some_iff.1 h
  exact ⟨i, t, rfl, hop, .inl ⟨hi, ht⟩⟩

/-- A line that is read stands for the request of an instruction of the operation code it names. -/
theorem assembleLine_eq_some {line : Text} {r : Request} (h : assembleLine line = some r) :
    ∃ i t, r = assemble i t ∧ LineReads line i t := by
  unfold assembleLine at h
  split at h
  case h_1 hop => exact lineReads_text (i := .fromBin24) (.inl rfl) hop h
  case h_2 hop => exact lineReads_text (i := .fromBin26) (.inr (.inl rfl)) hop h
  case h_3 hop => exact lineReads_text (i := .fromHex) (.inr (.inr (.inl rfl))) hop h
  case h_4 hop => exact lineReads_text (i := .fromDec) (.inr (.inr (.inr rfl))) hop h
  case h_5 hop =>
    obtain ⟨k, -, rfl⟩ := Option.map_eq_some_iff.1 h
    exact ⟨.render k, [], rfl, hop, .inr ⟨by simp [TakesText], rfl⟩⟩
  case h_6 hop =>
    obtain ⟨n, -, rfl⟩ := Option.map_eq_some_iff.1 h
    exact ⟨.computeParity _, [], rfl, hop, .inr ⟨by simp [TakesText], rfl⟩⟩
  case h_7 hop =>
    obtain ⟨i, hi, rfl⟩ := Option.map_eq_some_iff.1 h
    obtain ⟨se, so, ex, rfl⟩ := validateOperand_eq_some hi
    exact ⟨.validateParity se so ex, [], rfl, hop, .inr ⟨by simp [TakesText], rfl⟩⟩
  case h_8 => cases h

/-- A line that names a text operation is read through its quoted text. -/
theorem assembleLine_text {line : Text} {i : Instr} (hi : TakesText i)
    (hop : namedOp (lineName line) = some (opcode i).toNat) :
    assembleLine line = (quotedText (lineOperand line)).map (assemble i) := by
  unfold assembleLine
  rw [hop]
  rcases hi with rfl | rfl | rfl | rfl <;> rfl

/-- A line that names `RENDER` is read through its Credential. -/
theorem assembleLine_render {line : Text} (hop : namedOp (lineName line) = some 4) :
    assembleLine line = (credentialOperand (lineOperand line)).map fun k => assemble (.render k) [] := by
  unfold assembleLine
  rw [hop]
  rfl

/-- A line that names `COMPUTE_PARITY` is read through its payload. -/
theorem assembleLine_computeParity {line : Text} (hop : namedOp (lineName line) = some 5) :
    assembleLine line = (literalBelow (2 ^ 24) (lineOperand line)).map fun n =>
      assemble (.computeParity (BitVec.ofNat 24 n)) [] := by
  unfold assembleLine
  rw [hop]
  rfl

/-- A line that names `VALIDATE_PARITY` is read through its four bits. -/
theorem assembleLine_validateParity {line : Text} (hop : namedOp (lineName line) = some 6) :
    assembleLine line = (validateOperand (lineOperand line)).map fun i => assemble i [] := by
  unfold assembleLine
  rw [hop]
  rfl

/-! ### Lines written out -/

/-- A text whose first character is no space. -/
def StartsOperand (t : Text) : Prop := ∃ c rest, t = c :: rest ∧ (c == spaceCode) = false

theorem startsOperand_cons {c : Code} (rest : Text) (h : (c == spaceCode) = false) : StartsOperand (c :: rest) :=
  ⟨c, rest, rfl, h⟩

theorem StartsOperand.append {a : Text} (h : StartsOperand a) (b : Text) : StartsOperand (a ++ b) := by
  obtain ⟨c, rest, rfl, hc⟩ := h
  exact startsOperand_cons (rest ++ b) hc

theorem StartsOperand.dropWhile {a : Text} (h : StartsOperand a) : a.dropWhile (· == spaceCode) = a := by
  obtain ⟨c, rest, rfl, hc⟩ := h
  simp [hc]

/-- A name without a space, one space and an operand are read as that name and that operand. -/
theorem line_of_operand {name operand : Text} (hname : ∀ x ∈ name, (x != spaceCode) = true)
    (hoperand : StartsOperand operand) :
    lineName (name ++ [0x20] ++ operand) = name ∧ lineOperand (name ++ [0x20] ++ operand) = operand := by
  obtain ⟨c, rest, rfl, hc⟩ := hoperand
  exact line_of_name hname hc

/-- A name of the operation code `n`, as the first word of a line. -/
def NamesOp (name : Text) (n : Nat) : Prop := (∀ x ∈ name, (x != spaceCode) = true) ∧ namedOp name = some n

/-- A line whose first word names an operation code. -/
theorem line_of_namesOp {name operand : Text} {n : Nat} (hname : NamesOp name n) (hoperand : StartsOperand operand) :
    namedOp (lineName (name ++ [0x20] ++ operand)) = some n ∧ lineOperand (name ++ [0x20] ++ operand) = operand := by
  obtain ⟨hspace, hop⟩ := hname
  obtain ⟨hfirst, hrest⟩ := line_of_operand hspace hoperand
  exact ⟨by rw [hfirst, hop], hrest⟩

/-- The mnemonic and the source name of each row of the table name the row's place, the operation code (R76, R93). -/
theorem namesOp_of_row (n : Fin 7) :
    ∀ name ∈ [opTable[n].mnemonic, opTable[n].sourceName], NamesOp (nameCodes name) n := by
  unfold NamesOp
  revert n
  decide

/-- The names of `CONVERT` (R94). -/
theorem convertForm_of_name : ∀ pair ∈ [("CONVERT.BIN24", Form.bin24), ("CONVERT.BIN26", Form.bin26),
    ("CONVERT.HEX", Form.hex), ("CONVERT.DEC", Form.dec)],
    (∀ x ∈ nameCodes pair.1, (x != spaceCode) = true) ∧ convertForm (nameCodes pair.1) = some pair.2 := by
  decide

theorem quotedText_quoted (t : Text) : quotedText (0x22 :: (t ++ [0x22])) = some t := by
  simp [quotedText, quoteCode]

theorem startsOperand_quoted (t : Text) : StartsOperand (0x22 :: (t ++ [0x22])) :=
  startsOperand_cons _ (by decide)

/-- A line of a quoted text, cut into its name and its operand. -/
theorem quoted_line_eq (name t : Text) :
    name ++ [0x20, 0x22] ++ t ++ [0x22] = name ++ [0x20] ++ 0x22 :: (t ++ [0x22]) := by
  simp

/-- A line of a text operation is the request of the characters between the quotation marks. -/
theorem assembleLine_quoted {i : Instr} {name : Text} (hi : TakesText i) (hname : NamesOp name (opcode i).toNat)
    (t : Text) : assembleLine (name ++ [0x20, 0x22] ++ t ++ [0x22]) = some (assemble i t) := by
  obtain ⟨hop, hoperand⟩ := line_of_namesOp hname (startsOperand_quoted t)
  rw [quoted_line_eq, assembleLine_text hi hop, hoperand, quotedText_quoted, Option.map_some]

/-- A `CONVERT` line is the expansion of the characters between the quotation marks. -/
theorem expandLine_quoted {form : Form} {name : Text} (hspace : ∀ x ∈ name, (x != spaceCode) = true)
    (hname : convertForm name = some form) (t : Text) :
    expandLine (name ++ [0x20, 0x22] ++ t ++ [0x22]) = some (convert form t) := by
  obtain ⟨hfirst, hoperand⟩ := line_of_operand hspace (startsOperand_quoted t)
  simp only [quoted_line_eq, expandLine, hfirst, hname, hoperand, quotedText_quoted, Option.map_some]

/-! ### Literals -/

/-- The digits of a number are read as the number they spell, where the class's values are those of hex digits. -/
theorem digitGroup_of_digitsSpell {base n : Nat} {cls : Code → Bool} {value : Code → Nat} {t : Text}
    (hvalue : ∀ c, cls c = true → (hexVal c).toNat = value c) (h : DigitsSpell base cls value t n) :
    digitGroup base cls t = some n := by
  obtain ⟨hlen, hcls, rfl⟩ := h
  have hall : t.all cls = true := (all_charAt t cls).2 hcls
  have hne : t ≠ [] := List.ne_nil_of_length_pos hlen
  have hdigits : (t.map fun c => (hexVal c).toNat) = t.map value :=
    List.map_congr_left fun c hc => hvalue c (List.all_eq_true.1 hall c hc)
  simp [digitGroup, hne, hall, hdigits, digitsNat_eq_placeSum]

/-- A number is a text of its class that is not empty. -/
theorem DigitsSpell.digits {base n : Nat} {cls : Code → Bool} {value : Code → Nat} {t : Text}
    (h : DigitsSpell base cls value t n) : t ≠ [] ∧ t.all cls = true := by
  obtain ⟨hlen, hcls, -⟩ := h
  exact ⟨List.ne_nil_of_length_pos hlen, (all_charAt t cls).2 hcls⟩

/-- A character outside a class is not in a text of the class. -/
theorem not_mem_of_all {cls : Code → Bool} {t : Text} {c : Code} (h : t.all cls = true) (hc : cls c = false) :
    c ∉ t := by
  intro hmem
  rw [List.all_eq_true.1 h c hmem] at hc
  cases hc

/-- A text without an `x` does not begin with `0x`. -/
theorem take_two_ne_0x {t : Text} (h : 0x78 ∉ t) : t.take 2 ≠ nameCodes "0x" := by
  intro htake
  have hx : (0x78 : Code) ∈ nameCodes "0x" := by decide
  rw [← htake] at hx
  exact h (List.mem_of_mem_take hx)

/-- A literal without an `x` and without the mark is a plain decimal. -/
theorem literal_unmarked {t : Text} (hx : 0x78 ∉ t) (hmark : 0x27 ∉ t) : literal t = digitGroup 10 isDec t := by
  rw [literal, if_neg (by simpa using take_two_ne_0x hx), if_neg (by simpa using hmark)]

/-- A literal without an `x` and with the mark is a sized binary. -/
theorem literal_marked {t : Text} (hx : 0x78 ∉ t) (hmark : 0x27 ∈ t) : literal t = sizedBinary t := by
  rw [literal, if_neg (by simpa using take_two_ne_0x hx), if_pos (by simpa using hmark)]

/-- A literal after `0x` is hexadecimal. -/
theorem literal_after0x (d : Text) : literal ([0x30, 0x78] ++ d) = digitGroup 16 isHex d :=
  if_pos (show ([0x30, 0x78] == nameCodes "0x") = true by decide)

/-- A sized binary is its bits, where the size is their number. -/
theorem sizedBinary_append {w d : Text} (hw : w.all isDec = true) (hsize : digitGroup 10 isDec w = some d.length) :
    sizedBinary (w ++ [0x27, 0x62] ++ d) = digitGroup 2 isBin d := by
  have hline : w ++ [0x27, 0x62] ++ d = w ++ 0x27 :: 0x62 :: d := by simp
  have hmark : isDec 0x27 = false := by decide
  rw [hline]
  simp only [sizedBinary, takeWhile_isDec hw hmark, dropWhile_isDec hw hmark, hsize]
  simp

/-- A literal is read as the number it spells (00_scope.md R14). -/
theorem literal_of_literalSpells {t : Text} {n : Nat} (h : LiteralSpells t n) : literal t = some n := by
  rcases h with hdec | ⟨d, rfl, hhex⟩ | ⟨w, d, rfl, hsize, hbits⟩
  · obtain ⟨-, hdigits⟩ := hdec.digits
    rw [literal_unmarked (not_mem_of_all hdigits (by decide)) (not_mem_of_all hdigits (by decide))]
    exact digitGroup_of_digitsSpell (fun _ => hexVal_of_isDec) hdec
  · rw [literal_after0x]
    exact digitGroup_of_digitsSpell (fun _ _ => rfl) hhex
  · obtain ⟨-, hw⟩ := hsize.digits
    obtain ⟨-, hd⟩ := hbits.digits
    have hxw : 0x78#8 ∉ w := not_mem_of_all hw (by decide)
    have hxd : 0x78#8 ∉ d := not_mem_of_all hd (by decide)
    have hx : 0x78 ∉ w ++ [0x27, 0x62] ++ d := by simp [hxw, hxd]
    rw [literal_marked hx (by simp),
      sizedBinary_append hw (digitGroup_of_digitsSpell (fun _ => hexVal_of_isDec) hsize)]
    exact digitGroup_of_digitsSpell (fun _ => hexVal_of_isBin) hbits

/-- A literal below its bound is accepted. -/
theorem literalBelow_of_literalSpells {t : Text} {n bound : Nat} (h : LiteralSpells t n) (hn : n < bound) :
    literalBelow bound t = some n := by
  simp [literalBelow, literal_of_literalSpells h, hn]

/-- The operand bits of a literal of a vector's value (R14). -/
theorem literalBelow_of_bits {t : Text} {w : Nat} {v : BitVec w} (h : LiteralSpells t v.toNat) :
    literalBelow (2 ^ w) t = some v.toNat :=
  literalBelow_of_literalSpells h v.isLt

/-- The characters of literals: digits, the `x` of `0x` and the mark of a sized binary (its `b` is a hex
digit). -/
def isLiteralChar (c : Code) : Bool := isHex c || c == 0x78 || c == 0x27

theorem isLiteralChar_of_isHex {c : Code} (h : isHex c = true) : isLiteralChar c = true := by
  simp [isLiteralChar, h]

theorem isLiteralChar_of_isDec {c : Code} (h : isDec c = true) : isLiteralChar c = true :=
  isLiteralChar_of_isHex (isHex_iff.2 (.inl h))

/-- A literal is a text of literal characters that is not empty. -/
theorem literal_chars {t : Text} {n : Nat} (h : LiteralSpells t n) : t ≠ [] ∧ t.all isLiteralChar = true := by
  have hlift {cls : Code → Bool} {u : Text} (hcls : ∀ c, cls c = true → isLiteralChar c = true)
      (hu : u.all cls = true) : u.all isLiteralChar = true :=
    List.all_eq_true.2 fun c hc => hcls c (List.all_eq_true.1 hu c hc)
  rcases h with hdec | ⟨d, rfl, hhex⟩ | ⟨w, d, rfl, hwidth, hbits⟩
  · obtain ⟨hne, hdigits⟩ := hdec.digits
    exact ⟨hne, hlift (fun _ => isLiteralChar_of_isDec) hdigits⟩
  · obtain ⟨-, hdigits⟩ := hhex.digits
    have hd := hlift (fun _ => isLiteralChar_of_isHex) hdigits
    exact ⟨by simp, by rw [List.all_append, hd]; decide⟩
  · obtain ⟨-, hw⟩ := hwidth.digits
    obtain ⟨-, hd⟩ := hbits.digits
    have hw := hlift (fun _ => isLiteralChar_of_isDec) hw
    have hd := hlift (fun _ hc => isLiteralChar_of_isDec (isDec_of_isBin hc)) hd
    exact ⟨by simp, by rw [List.all_append, List.all_append, hw, hd]; decide⟩

/-- A literal begins with none of the characters that a line cuts at. -/
theorem literal_head {t : Text} {n : Nat} {c : Code} (h : LiteralSpells t n) (hc : isLiteralChar c = false) :
    t.head? ≠ some c := by
  obtain ⟨-, hchars⟩ := literal_chars h
  exact fun hhead => not_mem_of_all hchars hc (List.mem_of_mem_head? hhead)

/-- A literal has no comma in it. -/
theorem literal_no_comma {t : Text} {n : Nat} (h : LiteralSpells t n) : ∀ x ∈ t, (x == comma) = false := by
  obtain ⟨-, hchars⟩ := literal_chars h
  intro x hx
  rw [beq_eq_false_iff_ne]
  rintro rfl
  exact not_mem_of_all hchars (by decide) hx

/-- A literal begins with a character that is no space. -/
theorem literal_startsOperand {t : Text} {n : Nat} (h : LiteralSpells t n) : StartsOperand t := by
  obtain ⟨hne, -⟩ := literal_chars h
  obtain ⟨c, rest, rfl⟩ := List.exists_cons_of_ne_nil hne
  refine startsOperand_cons rest (beq_eq_false_iff_ne.2 ?_)
  rintro rfl
  exact literal_head h (c := spaceCode) (by decide) rfl

/-! ### Operands of the numeric lines -/

/-- The four literals of an operand are its members, in the order written. -/
theorem members_fourMembers {a b c d : Text} {na nb nc nd : Nat} (ha : LiteralSpells a na) (hb : LiteralSpells b nb)
    (hc : LiteralSpells c nc) (hd : LiteralSpells d nd) : members (fourMembers a b c d) = [a, b, c, d] := by
  have hsplit : fourMembers a b c d =
      a ++ comma :: ((spaceCode :: b) ++ comma :: ((spaceCode :: c) ++ comma :: (spaceCode :: d))) := by
    simp [fourMembers, comma, spaceCode]
  have hcomma {t : Text} {n : Nat} (ht : LiteralSpells t n) : ∀ x ∈ spaceCode :: t, (x == comma) = false :=
    List.forall_mem_cons.2 ⟨by decide, literal_no_comma ht⟩
  have hspace {t : Text} {n : Nat} (ht : LiteralSpells t n) : (spaceCode :: t).dropWhile (· == spaceCode) = t := by
    rw [List.dropWhile_cons_of_pos (by decide)]
    exact (literal_startsOperand ht).dropWhile
  rw [hsplit, members_comma a _ (literal_no_comma ha), members_comma _ _ (hcomma hb), members_comma _ _ (hcomma hc),
    members_one _ (hcomma hd), (literal_startsOperand ha).dropWhile, hspace hb, hspace hc, hspace hd]

theorem fourMembers_startsOperand {a : Text} {n : Nat} (b c d : Text) (h : LiteralSpells a n) :
    StartsOperand (fourMembers a b c d) := by
  have hstart := literal_startsOperand h
  simp only [fourMembers, List.append_assoc]
  exact hstart.append _

/-- `RENDER`'s operand as a number is the Credential of that frame. -/
theorem credentialOperand_number {t : Text} {f : Frame} (h : LiteralSpells t f.toNat) :
    credentialOperand t = some (credentialOf f) := by
  have hhead : t.head? ≠ some 0x7B#8 := literal_head h (by decide)
  rw [credentialOperand, if_neg (by simp [hhead]), literalBelow_of_bits h, Option.map_some,
    BitVec.ofNat_toNat, BitVec.setWidth_eq]

/-- What stands between braces is read by its members. -/
theorem credentialOperand_braces {m e fc cc o : Text} {ne nfc ncc no : Nat} (hm : members m = [e, fc, cc, o])
    (he : literalBelow 2 e = some ne) (hfc : literalBelow 256 fc = some nfc)
    (hcc : literalBelow 65536 cc = some ncc) (ho : literalBelow 2 o = some no) :
    credentialOperand (0x7B :: (m ++ [0x7D])) =
      some ⟨BitVec.ofNat 1 ne, BitVec.ofNat 8 nfc, BitVec.ofNat 16 ncc, BitVec.ofNat 1 no⟩ := by
  have hlast : (0x7B#8 :: (m ++ [0x7D#8])).getLast? = some 0x7D#8 := List.getLast?_concat (l := 0x7B#8 :: m)
  simp [credentialOperand, hlast, hm, he, hfc, hcc, ho]

/-- `RENDER`'s operand as four fields between braces is the Credential of those fields. -/
theorem credentialOperand_fields {t1 t2 t3 t4 : Text} {e : Bit} {fc : Facility} {cc : Card} {o : Bit}
    (h1 : LiteralSpells t1 e.toNat) (h2 : LiteralSpells t2 fc.toNat) (h3 : LiteralSpells t3 cc.toNat)
    (h4 : LiteralSpells t4 o.toNat) :
    credentialOperand (0x7B :: (fourMembers t1 t2 t3 t4 ++ [0x7D])) = some ⟨e, fc, cc, o⟩ := by
  rw [credentialOperand_braces (members_fourMembers h1 h2 h3 h4) (literalBelow_of_bits h1) (literalBelow_of_bits h2)
    (literalBelow_of_bits h3) (literalBelow_of_bits h4)]
  simp only [BitVec.ofNat_toNat, BitVec.setWidth_eq]

/-- `VALIDATE_PARITY`'s operand is its four bits. -/
theorem validateOperand_fields {t1 t2 t3 t4 : Text} {se so ee eo : Bit} (h1 : LiteralSpells t1 se.toNat)
    (h2 : LiteralSpells t2 so.toNat) (h3 : LiteralSpells t3 ee.toNat) (h4 : LiteralSpells t4 eo.toNat) :
    validateOperand (fourMembers t1 t2 t3 t4) = some (.validateParity se so ⟨ee, eo⟩) := by
  have hbit {t : Text} {b : Bit} (h : LiteralSpells t b.toNat) : literalBelow 2 t = some b.toNat :=
    literalBelow_of_bits h
  simp [validateOperand, members_fourMembers h1 h2 h3 h4, hbit h1, hbit h2, hbit h3, hbit h4]

/-! ### The statements -/

/-- Settles O1: the word's two fields are read back as they were written. -/
theorem decodeOfEncode : Obligations.DecodeOfEncode :=
  fun _ => decode_eq_ok_iff.2 rfl

/-- Settles O2: the decoder's fields are the encoder's, and a word is its two fields. -/
theorem encodeOfDecode : Obligations.EncodeOfDecode :=
  fun _ _ h => decode_eq_ok_iff.1 h

/-- Settles O3: the reserved words are read off the decoder's rows, and a step answers each of them with the bare
failure. -/
theorem reservedWordsAreIllegal : Obligations.ReservedWordsAreIllegal := by
  refine ⟨fun w => decodeFields_error_iff (opField w) (argField w), fun s req e hs hr hd => ?_⟩
  refine ⟨failureResponse .illegalRequest, ?_, bareStatus_failureResponse .illegalRequest⟩
  rw [step_answers hr hs, answer_illegal hd]

/-- Settles O4: a row's words decode to its mnemonic; a word decodes to one instruction, and mnemonics tell the rows
apart. -/
theorem decodeFollowsTable : Obligations.DecodeFollowsTable := by
  refine ⟨fun w row => selects_row_iff, fun w a b ha hb hwa hwb => ?_⟩
  obtain ⟨i, hi, hia⟩ := (selects_row_iff ha).1 hwa
  obtain ⟨j, hj, hjb⟩ := (selects_row_iff hb).1 hwb
  obtain rfl : i = j := Except.ok.inj (hi.symm.trans hj)
  exact row_eq_of_mnemonic ha hb (hia.symm.trans hjb)

/-- Settles O5. -/
theorem writtenWordsDecode : Obligations.WrittenWordsDecode := by
  refine ⟨?_, ?_, ?_, ?_, ?_, ?_, ?_⟩ <;> exact decode_eq_ok_iff.2 (by decide)

/-- Settles O6. -/
theorem frameIsCredential : Obligations.FrameIsCredential :=
  ⟨credentialOf_frameOf, frameOf_credentialOf, fun _ => rfl, fun _ => ⟨rfl, rfl, rfl, rfl⟩⟩

/-- Settles O26: both sides say that the text is two non-empty groups of digits with a comma between. -/
theorem decimalGrammar : Obligations.DecimalGrammar := by
  refine fun t => ⟨fun f c => ?_, fun j k => decimalAt_unique⟩
  rw [decimalGroups_eq_some]
  constructor
  · rintro ⟨rfl, hf, hc, hfd, hcd⟩
    refine ⟨f.length, decimalAt_append hf hc hfd hcd, by simp, ?_⟩
    rw [slice_to_end]
    simp
  · rintro ⟨k, hk, rfl, rfl⟩
    rw [slice_zero, slice_to_end]
    exact decimalAt_groups hk

/-- Settles O27: a leading zero adds zero times a power of ten. -/
theorem decimalValueExact : Obligations.DecimalValueExact := by
  intro g
  have hsum (t : Text) : decNat t = placeSum 10 decVal t := digitsNat_eq_placeSum 10 decVal t
  refine ⟨by rw [hsum, decimalSum_whole], ?_⟩
  rw [hsum, hsum, placeSum_cons]
  simp [decVal]

/-- Settles O25: each class is a range of codes, and the ranges do not meet. -/
theorem characterCodes : Obligations.CharacterCodes :=
  ⟨fun c => ⟨isBin_iff, fun _ => binVal_eq_lowBit c, isDec_iff, fun _ => rfl, isHex_iff, hexVal_of_isDec,
    fun hlo hhi => hexVal_of_isUpperHex (isUpperHex_iff.2 ⟨hlo, hhi⟩),
    fun hlo hhi => hexVal_of_isLowerHex (isLowerHex_iff.2 ⟨hlo, hhi⟩)⟩, rfl, rfl, hexChar_toNat⟩

/-- Settles O48: a line that is read names its instruction's operation code, which is the place of the instruction's
row in the table. -/
theorem assembledLineDecodes : Obligations.AssembledLineDecodes := by
  constructor
  · intro line r h
    obtain ⟨i, t, rfl, hop, htext⟩ := assembleLine_eq_some h
    obtain ⟨row, hrow, hname⟩ := namedOp_eq_some hop
    obtain ⟨row', hrow', hmnemonic⟩ := opTable_opcode i
    obtain rfl : row' = row := Option.some.inj (hrow'.symm.trans hrow)
    refine ⟨i, t, row', rfl, List.mem_of_getElem? hrow, hmnemonic, hname, decode_assemble i t,
      requestText_assemble i t, rfl, ?_⟩
    rcases htext with ⟨htakes, hquoted⟩ | ⟨htakes, rfl⟩
    · exact ⟨fun _ => ⟨quotedText_eq_some hquoted, operandArg_of_takesText htakes⟩, absurd htakes⟩
    · exact ⟨fun h => absurd h htakes, fun _ => rfl⟩
  · exact fun i t => ⟨decode_assemble i t, requestText_assemble i t, rfl, operandArg_of_takesText⟩

/-- Settles O49: the second request is there on `OK` only, and its operand is the Credential's frame, which is `res`. -/
theorem convertExpansion : Obligations.ConvertExpansion := by
  intro form t
  constructor
  · intro hfails
    rw [convert, answer_assemble, convertSecond, if_neg hfails]
    rfl
  · intro hok
    refine ⟨assemble (.render (credentialOf (respond (formInstr form) t).res)) [], ?_, ?_⟩
    · rw [convert, answer_assemble, convertSecond, if_pos hok]
      rfl
    · rw [requestWord_assemble, encode, operandArg, frameOf_credentialOf]
      rfl

/-- Settles O50. -/
theorem quotedLineIsItsText : Obligations.QuotedLineIsItsText := by
  refine fun t => ⟨fun name hname => ?_, fun name hname => ?_, fun name hname => ?_, fun name hname => ?_,
    fun pair hpair => ?_⟩
  · exact assembleLine_quoted (i := .fromBin24) (.inl rfl) (namesOp_of_row 0 name hname) t
  · exact assembleLine_quoted (i := .fromBin26) (.inr (.inl rfl)) (namesOp_of_row 1 name hname) t
  · exact assembleLine_quoted (i := .fromHex) (.inr (.inr (.inl rfl))) (namesOp_of_row 2 name hname) t
  · exact assembleLine_quoted (i := .fromDec) (.inr (.inr (.inr rfl))) (namesOp_of_row 3 name hname) t
  · obtain ⟨hspace, hform⟩ := convertForm_of_name pair hpair
    exact expandLine_quoted hspace hform t

/-- Settles O51: each literal is read as the value it spells, each operand as its members in the order written. -/
theorem numericLineIsItsOperand : Obligations.NumericLineIsItsOperand := by
  refine ⟨fun t frame ht name hname => ?_, fun t1 t2 t3 t4 e fc cc o h1 h2 h3 h4 name hname => ?_,
    fun t payload ht name hname => ?_, fun t1 t2 t3 t4 se so ee eo h1 h2 h3 h4 name hname => ?_⟩
  · obtain ⟨hop, hoperand⟩ := line_of_namesOp (namesOp_of_row 4 name hname) (literal_startsOperand ht)
    rw [assembleLine_render hop, hoperand, credentialOperand_number ht, Option.map_some, assemble, operandArg,
      frameOf_credentialOf]
    rfl
  · have hline : nameCodes name ++ [0x20, 0x7B] ++ fourMembers t1 t2 t3 t4 ++ [0x7D] =
        nameCodes name ++ [0x20] ++ 0x7B :: (fourMembers t1 t2 t3 t4 ++ [0x7D]) := by simp
    obtain ⟨hop, hoperand⟩ := line_of_namesOp (namesOp_of_row 4 name hname)
      (startsOperand_cons (c := 0x7B) (fourMembers t1 t2 t3 t4 ++ [0x7D]) (by decide))
    rw [hline, assembleLine_render hop, hoperand, credentialOperand_fields h1 h2 h3 h4]
    rfl
  · obtain ⟨hop, hoperand⟩ := line_of_namesOp (namesOp_of_row 5 name hname) (literal_startsOperand ht)
    rw [assembleLine_computeParity hop, hoperand, literalBelow_of_bits ht, Option.map_some, BitVec.ofNat_toNat,
      BitVec.setWidth_eq]
    rfl
  · obtain ⟨hop, hoperand⟩ := line_of_namesOp (namesOp_of_row 6 name hname) (fourMembers_startsOperand t2 t3 t4 h1)
    rw [assembleLine_validateParity hop, hoperand, validateOperand_fields h1 h2 h3 h4]
    rfl

end Sys2Proof.Machine
end

section
/-! PROOFS. The parity unit (spec/40_parity_unit.md): the two parity bits as the exclusive-or of their groups, each side
of a validation as one comparison, and the statements of the family that follow from them. -/

namespace Sys2Proof.Machine

/-! ### Counts and exclusive-ors of runs of bits -/

/-- A run of bits is counted in two parts. -/
theorem onesIn_add {n : Nat} (v : BitVec n) (lo a b : Nat) :
    onesIn v lo (a + b) = onesIn v lo a + onesIn v (lo + a) b := by
  induction b with
  | zero => rfl
  | succ b ih => rw [← Nat.add_assoc, onesIn_succ, ih, onesIn_succ, Nat.add_assoc, Nat.add_assoc lo]

/-- A field holds the 1s of its place in the vector. -/
theorem onesIn_extract {n : Nat} (v : BitVec n) (a k : Nat) : onesIn (v.extractLsb' a k) 0 k = onesIn v a k :=
  onesIn_congr v _ a 0 k fun i hi => by simp [hi]

/-- A concatenation holds the 1s of both parts. -/
theorem onesIn_append {m n : Nat} (x : BitVec m) (y : BitVec n) :
    onesIn (x ++ y) 0 (m + n) = onesIn x 0 m + onesIn y 0 n := by
  calc onesIn (x ++ y) 0 (m + n)
      = onesIn (x ++ y) 0 (n + m) := congrArg _ (Nat.add_comm m n)
    _ = onesIn ((x ++ y).extractLsb' 0 n) 0 n + onesIn ((x ++ y).extractLsb' n m) 0 m := by
        rw [onesIn_add, Nat.zero_add, onesIn_extract, onesIn_extract]
    _ = onesIn x 0 m + onesIn y 0 n := by rw [extract_append_lo, extract_append_hi, Nat.add_comm]

/-- A single bit counts for its value. -/
theorem onesIn_bit (b : Bit) : onesIn b 0 1 = b.toNat := by
  revert b; decide

/-- The exclusive-or of a run of bits is 1 when their count is odd. -/
theorem xorOf_eq_odd {n : Nat} (v : BitVec n) (lo k : Nat) : xorOf v lo k = decide (onesIn v lo k % 2 = 1) := by
  induction k with
  | zero => rfl
  | succ k ih =>
    rw [xorOf, onesIn_succ, ih]
    cases v.getLsbD (lo + k) with
    | false => simp
    | true =>
      have hflip : (onesIn v lo k + 1) % 2 = 1 ↔ ¬ onesIn v lo k % 2 = 1 := by omega
      rw [Bool.toNat_true, decide_eq_decide.2 hflip, decide_not, Bool.xor_true]

/-- The value of the exclusive-or is the count's remainder by 2. -/
theorem xorOf_toNat {n : Nat} (v : BitVec n) (lo k : Nat) : (xorOf v lo k).toNat = onesIn v lo k % 2 := by
  rw [xorOf_eq_odd]
  rcases Nat.mod_two_eq_zero_or_one (onesIn v lo k) with h | h <;> simp [h]

/-- The exclusive-or of a run is linear in the vector. -/
theorem xorOf_xor {n : Nat} (v u : BitVec n) (lo k : Nat) :
    xorOf (v ^^^ u) lo k = (xorOf v lo k ^^ xorOf u lo k) := by
  induction k with
  | zero => rfl
  | succ k ih => simp only [xorOf, ih, BitVec.getLsbD_xor, Bool.xor_assoc, Bool.xor_left_comm]

/-- Of a vector with bit `n` alone set, a run has exclusive-or 1 when it covers that bit. -/
theorem xorOf_twoPow {w n : Nat} (hn : n < w) (lo k : Nat) :
    xorOf (BitVec.twoPow w n) lo k = decide (lo ≤ n ∧ n < lo + k) := by
  induction k with
  | zero => exact (decide_eq_false (by omega)).symm
  | succ k ih =>
    rw [xorOf, ih, BitVec.getLsbD_twoPow]
    by_cases h : n = lo + k
    · simp [h, h ▸ hn]
    · have hcover : (lo ≤ n ∧ n < lo + (k + 1)) ↔ (lo ≤ n ∧ n < lo + k) := by omega
      simp [h, hcover]

/-- Flipping a bit of a run flips the run's exclusive-or. -/
theorem xorOf_flip {w n lo k : Nat} (v : BitVec w) (hw : n < w) (hlo : lo ≤ n) (hk : n < lo + k) :
    xorOf (v ^^^ BitVec.twoPow w n) lo k = !xorOf v lo k := by
  rw [xorOf_xor, xorOf_twoPow hw, decide_eq_true ⟨hlo, hk⟩, Bool.xor_true]

/-! ### The two parity bits -/

/-- The even bit by counting (R110). -/
theorem evenBit_toNat (p : Payload) : (evenBit p).toNat = onesIn p 12 12 % 2 := by
  rw [evenBit, popcount_eq, firstGroup, onesIn_extract, BitVec.toNat_ofNat, Nat.pow_one, Nat.mod_mod]

/-- The odd bit by counting (R111). -/
theorem oddBit_toNat (p : Payload) : (oddBit p).toNat = 1 - onesIn p 0 12 % 2 := by
  rw [oddBit, popcount_eq, secondGroup, onesIn_extract, BitVec.toNat_ofNat]
  omega

/-- The even bit by exclusive-or (R110). -/
theorem evenBit_eq_xorOf (p : Payload) : evenBit p = BitVec.ofBool (xorOf p 12 12) :=
  BitVec.eq_of_toNat_eq (by rw [evenBit_toNat, BitVec.toNat_ofBool, xorOf_toNat])

/-- The odd bit by exclusive-or (R111). -/
theorem oddBit_eq_xorOf (p : Payload) : oddBit p = BitVec.ofBool (!xorOf p 0 12) :=
  BitVec.eq_of_toNat_eq (by rw [oddBit_toNat, BitVec.toNat_ofBool, ← xorOf_toNat]; cases xorOf p 0 12 <;> rfl)

/-- `compute_parity` gives the two bits of R110 and R111 (R112). -/
theorem parityOf_computeParity (p : Payload) : ParityOf p (computeParity p).even (computeParity p).odd := by
  constructor
  · rw [← BitVec.toNat_inj, computeParity, evenBit_toNat]; rfl
  · rw [← BitVec.toNat_inj, computeParity, oddBit_toNat, show (1 : Bit).toNat = 1 from rfl]; omega

/-- Flipping a bit of the first group flips the even bit (R112). -/
theorem evenBit_flip (p : Payload) {n : Nat} (hlo : 12 ≤ n) (hhi : n < 24) :
    evenBit (p ^^^ BitVec.twoPow 24 n) = ~~~evenBit p := by
  rw [evenBit_eq_xorOf, evenBit_eq_xorOf, xorOf_flip p hhi hlo hhi, BitVec.not_ofBool]

/-- Flipping a bit of the second group flips the odd bit (R112). -/
theorem oddBit_flip (p : Payload) {n : Nat} (h : n < 12) : oddBit (p ^^^ BitVec.twoPow 24 n) = ~~~oddBit p := by
  rw [oddBit_eq_xorOf, oddBit_eq_xorOf, xorOf_flip p (by omega) (by omega) (by omega), BitVec.not_ofBool]

/-! ### One side of a validation -/

/-- A flag is raised when the supplied bit differs (R116). -/
theorem mismatch_eq_one_iff (supplied expected : Bit) : mismatch supplied expected = 1 ↔ supplied ≠ expected := by
  unfold mismatch
  split <;> simp [*]

/-- A flag is the exclusive-or of the two bits (R117, R118). -/
theorem mismatch_eq_xor (supplied expected : Bit) : mismatch supplied expected = supplied ^^^ expected := by
  revert supplied expected; decide

/-- The accepted bit is the expected one where the two differ, the supplied one otherwise (R116). -/
theorem accepted_eq_ite (supplied expected : Bit) :
    accepted supplied expected = if supplied ≠ expected then expected else supplied := by
  simp only [accepted, mismatch_eq_one_iff]

/-- The supplied bit is recovered from the accepted bit and the flag (R117). -/
theorem supplied_eq_accepted_xor_mismatch (supplied expected : Bit) :
    supplied = accepted supplied expected ^^^ mismatch supplied expected := by
  rw [accepted_eq, mismatch_eq_xor, xor_xor_cancel_comm_assoc]

/-! ### The fields of `res` -/

/-- Two bits under zeros, read back (R115). -/
theorem extract_two_bits (a b : Bit) :
    (0#24 ++ (a ++ b) : BitVec 26).extractLsb' 1 1 = a ∧ (0#24 ++ (a ++ b) : BitVec 26).extractLsb' 0 1 = b :=
  ⟨(extract_append_inside_lo 0#24 (a ++ b) 1 1 (by decide)).trans (extract_append_hi a b),
    (extract_append_inside_lo 0#24 (a ++ b) 0 1 (by decide)).trans (extract_append_lo a b)⟩

/-- Four bits under zeros, read back (R118): `res` has the places of format V's operands. -/
theorem extract_four_bits (a b c d : Bit) :
    let v : BitVec 26 := 0#22 ++ (a ++ b ++ c ++ d)
    v.extractLsb' 3 1 = a ∧ v.extractLsb' 2 1 = b ∧ v.extractLsb' 1 1 = c ∧ v.extractLsb' 0 1 = d := by
  obtain ⟨ha, hb, hpair⟩ := Instr.validateParity.inj (validateOperands_append a b c d)
  obtain ⟨hc, hd⟩ := ParityPair.mk.inj hpair
  exact ⟨ha, hb, hc, hd⟩

/-! ### The statements -/

/-- Settles O19. -/
theorem parityFormulas : Obligations.ParityFormulas := by
  refine fun p => ⟨evenBit_toNat p, oddBit_toNat p, evenBit_eq_xorOf p, oddBit_eq_xorOf p, fun h => ?_, fun h => ?_⟩
  · exact BitVec.eq_of_toNat_eq (by rw [evenBit_toNat, h]; rfl)
  · exact BitVec.eq_of_toNat_eq (by rw [oddBit_toNat, h]; rfl)

/-- Settles O20: each bit is a function of its group alone. -/
theorem parityLocality : Obligations.ParityLocality := by
  refine ⟨parityOf_computeParity, fun p q h => ?_, fun p q h => ?_, fun p _ => evenBit_flip p, fun p _ => oddBit_flip p⟩
  · exact congrArg (fun g : BitVec 12 => BitVec.ofNat 1 (popcount g % 2)) h
  · exact congrArg (fun g : BitVec 12 => BitVec.ofNat 1 (1 - popcount g % 2)) h

/-- Settles O21: the count of each thirteen bits is the group's count and its parity bit's value. -/
theorem frameGroupsBalanced : Obligations.FrameGroupsBalanced := by
  intro p
  have hfirst : onesIn ((computeParity p).even ++ p.extractLsb' 12 12 : BitVec 13) 0 13 =
      onesIn p 12 12 % 2 + onesIn p 12 12 := by
    rw [onesIn_append (computeParity p).even, onesIn_bit, onesIn_extract, computeParity, evenBit_toNat]
  have hsecond : onesIn (p.extractLsb' 0 12 ++ (computeParity p).odd : BitVec 13) 0 13 =
      onesIn p 0 12 + (1 - onesIn p 0 12 % 2) := by
    rw [onesIn_append _ (computeParity p).odd, onesIn_bit, onesIn_extract, computeParity, oddBit_toNat]
  rw [hfirst, hsecond]
  omega

/-- Settles O22. -/
theorem computeParityResult : Obligations.ComputeParityResult := by
  intro s req p hs
  obtain ⟨heven, hodd⟩ := extract_two_bits (computeParity p).even (computeParity p).odd
  refine ⟨computeParityResponse p, exec_pending _ hs, rfl, extract_append_hi 0#24 _, ?_, rfl,
    textsZero_okResponse _ _⟩
  rw [computeParityResponse, okResponse_res, heven, hodd]
  exact parityOf_computeParity p

/-- Settles O23, one side at a time. -/
theorem validateParitySides : Obligations.ValidateParitySides := fun se so ex =>
  ⟨mismatch_eq_one_iff se ex.even, mismatch_eq_one_iff so ex.odd, accepted_eq_ite se ex.even, accepted_eq_ite so ex.odd,
    accepted_eq se ex.even, accepted_eq so ex.odd, supplied_eq_accepted_xor_mismatch se ex.even,
    supplied_eq_accepted_xor_mismatch so ex.odd⟩

/-- Settles O24. -/
theorem validateParityResult : Obligations.ValidateParityResult := by
  intro s req se so ex hs
  obtain ⟨heven, hodd, hevenFlag, hoddFlag⟩ := extract_four_bits (accepted se ex.even) (accepted so ex.odd)
    (mismatch se ex.even) (mismatch so ex.odd)
  exact ⟨validateParityResponse se so ex, exec_pending _ hs, rfl, extract_append_hi 0#22 _,
    heven.trans (accepted_eq se ex.even), hodd.trans (accepted_eq so ex.odd),
    hevenFlag.trans (mismatch_eq_xor se ex.even), hoddFlag.trans (mismatch_eq_xor so ex.odd), rfl,
    textsZero_okResponse _ _⟩

end Sys2Proof.Machine
end

section
/-! PROOFS. The parsers (spec/41_bitfield_parsers.md): the digits of a number and the grammars by positions, one
equation for the response of each text operation, and the statements of the family. -/

namespace Sys2Proof.Machine

/-! ### Slices of texts -/

/-- A character of a slice. -/
theorem charAt_slice {t : Text} {a b i : Nat} (h : i < b - a) : charAt (slice t a b) i = charAt t (a + i) := by
  rw [slice, charAt_take h, charAt_drop]

/-- A slice that lies inside a text has as many characters as it names. -/
theorem slice_length {t : Text} {a n : Nat} (h : a + n ≤ t.length) : (slice t a (a + n)).length = n := by
  rw [slice, List.length_take, List.length_drop]
  omega

/-- A slice of a slice, inside it. -/
theorem slice_slice (t : Text) {a b c d : Nat} (h : a + d ≤ b) :
    slice (slice t a b) c d = slice t (a + c) (a + d) := by
  simp only [slice, List.drop_take, List.drop_drop, List.take_take]
  congr 1
  omega

/-! ### The digits of a number -/

/-- Each digit is read back from the number: the quotient by the power of the base that it is worth, reduced. -/
theorem digitsNat_digit {base : Nat} (ds : List Nat) (hds : ∀ d ∈ ds, d < base) {i : Nat} (hi : i < ds.length) :
    digitsNat base ds / base ^ (ds.length - 1 - i) % base = ds[i] := by
  induction ds using List.reverseRecOn with
  | nil => cases hi
  | append_singleton ds d ih =>
    have hd : d < base := hds d (by simp)
    have hlen : (ds ++ [d]).length = ds.length + 1 := by simp
    rw [digitsNat_append, hlen]
    rcases Nat.lt_succ_iff_lt_or_eq.1 (hlen ▸ hi) with hlt | rfl
    · have hpow : ds.length + 1 - 1 - i = ds.length - 1 - i + 1 := by omega
      have hquot : (digitsNat base ds * base + d) / base = digitsNat base ds := by
        rw [Nat.mul_comm, Nat.mul_add_div (by omega), Nat.div_eq_of_lt hd, Nat.add_zero]
      rw [hpow, Nat.pow_succ', ← Nat.div_div_eq_div_mul, hquot, ih (fun e he => hds e (by simp [he])) hlt,
        List.getElem_append_left hlt]
    · simp [Nat.mod_eq_of_lt hd]

/-- The same for a text whose characters have values below the base. -/
theorem digitsNat_charAt {base : Nat} {value : Code → Nat} (hvalue : ∀ c, value c < base) (t : Text) {i : Nat}
    (hi : i < t.length) :
    digitsNat base (t.map value) / base ^ (t.length - 1 - i) % base = value (charAt t i) := by
  have hdigits : ∀ d ∈ t.map value, d < base := by simp [hvalue]
  have h := digitsNat_digit _ hdigits (i := i) (by simpa using hi)
  simpa [charAt, hi] using h

/-! ### Vectors spelled by binary digits -/

/-- A binary digit is 1 or not (R82). -/
theorem binVal_toNat_eq_one_iff {c : Code} (h : isBin c = true) : (binVal c).toNat = 1 ↔ c = 0x31 := by
  rcases isBin_iff.1 h with rfl | rfl <;> decide

/-- `bitsval` is the vector its digits spell (R88). -/
theorem bitsSpelled_bitsVal {t : Text} {a n : Nat} (hlen : a + n ≤ t.length)
    (hbin : ∀ i, i < n → isBin (charAt t (a + i)) = true) : BitsSpelled (bitsVal n (slice t a (a + n))) t a := by
  intro i hi
  have hslice := slice_length hlen
  have hdigit := digitsNat_charAt (fun c => (binVal c).isLt) (slice t a (a + n)) (i := i) (by omega)
  rw [hslice, charAt_slice (by omega), Nat.pow_one] at hdigit
  rw [bitsVal, BitVec.getLsbD_ofNat, Nat.testBit_eq_decide_div_mod_eq, hdigit, decide_eq_true (by omega), Bool.true_and]
  exact decide_eq_decide.2 (binVal_toNat_eq_one_iff (hbin i hi))

/-- The digits determine the vector. -/
theorem BitsSpelled.unique {n : Nat} {v w : BitVec n} {t : Text} {a : Nat} (hv : BitsSpelled v t a)
    (hw : BitsSpelled w t a) : v = w := by
  refine BitVec.eq_of_getLsbD_eq fun i hi => ?_
  have h := (hv (n - 1 - i) (by omega)).trans (hw (n - 1 - i) (by omega)).symm
  rwa [show n - 1 - (n - 1 - i) = i by omega] at h

/-- The digits of a vector spell each of its fields at the field's place. -/
theorem BitsSpelled.field {n : Nat} {v : BitVec n} {t : Text} {a : Nat} (h : BitsSpelled v t a) (lo m : Nat)
    (hin : lo + m ≤ n) : BitsSpelled (v.extractLsb' lo m) t (a + (n - (lo + m))) := by
  intro i hi
  have hbit := h (n - (lo + m) + i) (by omega)
  rw [show n - 1 - (n - (lo + m) + i) = lo + (m - 1 - i) by omega, ← Nat.add_assoc] at hbit
  rw [BitVec.getLsbD_extractLsb', decide_eq_true (show m - 1 - i < m by omega), Bool.true_and, hbit]

/-- `bitsval` of the digits that spell a vector is the vector (R88). -/
theorem bitsVal_of_bitsSpelled {n : Nat} {v : BitVec n} {t : Text} {a : Nat} (hlen : a + n ≤ t.length)
    (hbin : ∀ i, i < n → isBin (charAt t (a + i)) = true) (h : BitsSpelled v t a) :
    bitsVal n (slice t a (a + n)) = v :=
  (bitsSpelled_bitsVal hlen hbin).unique h

/-- Of 24 binary digits that spell a payload the first 8 are worth its facility, the last 16 its card (R71). -/
theorem bitsVal_of_payloadSpelled {facility : Facility} {card : Card} {t : Text} {a : Nat} (hlen : a + 24 ≤ t.length)
    (hbin : ∀ i, i < 24 → isBin (charAt t (a + i)) = true) (h : BitsSpelled (facility ++ card : BitVec 24) t a) :
    bitsVal 8 (slice t a (a + 8)) = facility ∧ bitsVal 16 (slice t (a + 8) (a + 24)) = card := by
  have hfacility : BitsSpelled facility t a := extract_append_hi facility card ▸ h.field 16 8 (by decide)
  have hcard : BitsSpelled card t (a + 8) := extract_append_lo facility card ▸ h.field 0 16 (by decide)
  constructor
  · exact bitsVal_of_bitsSpelled (by omega) (fun i hi => hbin i (by omega)) hfacility
  · refine bitsVal_of_bitsSpelled (by omega) (fun i hi => ?_) hcard
    rw [Nat.add_assoc]
    exact hbin _ (by omega)

/-! ### Payloads spelled by hexadecimal digits -/

/-- A field of a number's vector is a quotient of the number. -/
theorem extract_ofNat {n lo m : Nat} (x : Nat) (h : lo + m ≤ n) :
    (BitVec.ofNat n x).extractLsb' lo m = BitVec.ofNat m (x / 2 ^ lo) := by
  refine BitVec.eq_of_getLsbD_eq fun i hi => ?_
  rw [BitVec.getLsbD_extractLsb', BitVec.getLsbD_ofNat, BitVec.getLsbD_ofNat, Nat.testBit_div_two_pow, Nat.add_comm i,
    decide_eq_true (show lo + i < n by omega), Bool.true_and]

/-- `hexpayload` is the payload its digits spell (R89). -/
theorem nibblesSpelled_hexPayload {t : Text} {a : Nat} (hlen : (t.drop a).length = 6) :
    NibblesSpelled (hexPayload (t.drop a)) t a := by
  intro i hi
  have hdigit := digitsNat_charAt (fun c => (hexVal c).isLt) (t.drop a) (i := i) (by omega)
  rw [hlen, charAt_drop, ← Nat.pow_mul] at hdigit
  have hplace : 20 - 4 * i = 4 * (6 - 1 - i) := by omega
  refine BitVec.eq_of_toNat_eq ?_
  rw [hexPayload, extract_ofNat _ (by omega), BitVec.toNat_ofNat, hplace]
  exact hdigit

/-- The digits determine the payload. -/
theorem NibblesSpelled.unique {p q : Payload} {t : Text} {a : Nat} (hp : NibblesSpelled p t a)
    (hq : NibblesSpelled q t a) : p = q := by
  refine BitVec.eq_of_getLsbD_eq fun j hj => ?_
  have h := congrArg (fun v => v.getLsbD (j % 4)) ((hp (5 - j / 4) (by omega)).trans (hq (5 - j / 4) (by omega)).symm)
  simpa [Nat.mod_lt, show 20 - 4 * (5 - j / 4) + j % 4 = j by omega] using h

/-! ### The grammars by positions -/

/-- The check of Binary24 is the grammar (R84). -/
theorem isBinary24_iff {t : Text} : isBinary24 t = true ↔ Binary24 t := by
  rw [isBinary24, Bool.and_eq_true, beq_iff_eq, all_charAt]
  exact and_congr_right fun hlen => by rw [hlen]; rfl

/-- The check of Binary26 is the grammar (R85). -/
theorem isBinary26_iff {t : Text} : isBinary26 t = true ↔ Binary26 t := by
  rw [isBinary26, Bool.and_eq_true, beq_iff_eq, all_charAt]
  exact and_congr_right fun hlen => by rw [hlen]; rfl

/-- The middle of a Binary26 text is a Binary24 text (R133). -/
theorem Binary26.middle {t : Text} (h : Binary26 t) : Binary24 (slice t 1 25) := by
  obtain ⟨hlen, hbin⟩ := h
  refine ⟨slice_length (a := 1) (n := 24) (by omega), fun i hi => ?_⟩
  rw [charAt_slice (by omega)]
  exact hbin _ (by omega)

/-- A Hex text has six digits from position `a`, and the check finds them (R86). -/
theorem HexFrom.digits {t : Text} {a : Nat} (h : HexFrom t a) :
    hexDigits t = some (t.drop a) ∧ (t.drop a).length = 6 := by
  rcases h with ⟨rfl, hlen, hhex⟩ | ⟨rfl, hlen, hzero, hx, hhex⟩
  · have hall : t.all isHex = true := (all_charAt t isHex).2 (hlen ▸ hhex)
    simp [hexDigits, hlen, hall, Config.hexDigits]
  · have hall : (t.drop 2).all isHex = true := by
      rw [all_charAt]
      intro i hi
      rw [List.length_drop] at hi
      rw [charAt_drop]
      exact hhex (2 + i) (by omega) (by omega)
    have hmark : hasHexPrefix t = true := by simpa [hasHexPrefix, hzero] using hx
    simp [hexDigits, hlen, hall, hmark, Config.hexDigits]

/-- `nat` of a slice is the sum over its positions (R90). -/
theorem decNat_slice {t : Text} {a n : Nat} (h : a + n ≤ t.length) : decNat (slice t a (a + n)) = decimalSum t a n := by
  obtain ⟨hsum, -⟩ := decimalValueExact (slice t a (a + n))
  rw [hsum, slice_length h, decimalSum, decimalSum]
  refine congrArg List.sum (List.map_congr_left fun i hi => ?_)
  rw [Nat.zero_add, charAt_slice (by have := List.mem_range.1 hi; omega)]

/-- A decimal pair is split into two groups, worth the facility number and the card number (R87, R90). -/
theorem DecimalAt.groups {t : Text} {k : Nat} (h : DecimalAt t k) :
    ∃ f c, decimalGroups t = some (f, c) ∧ decNat f = facilityNumber t k ∧ decNat c = cardNumber t k := by
  have ⟨_, hlen, _, _⟩ := h
  refine ⟨t.take k, t.drop (k + 1), decimalGroups_eq_some.2 (decimalAt_groups h), ?_, ?_⟩
  · rw [← slice_zero, facilityNumber, ← decNat_slice (by omega), Nat.zero_add]
  · rw [← slice_to_end, cardNumber, ← decNat_slice (by omega), show k + 1 + (t.length - 1 - k) = t.length by omega]

/-! ### Credentials with computed parity -/

/-- The Credential of a facility and a card with the parity bits of R110 and R111. -/
def computedCredential (facility : Facility) (card : Card) : Credential :=
  let pair := computeParity (facility ++ card : BitVec 24)
  ⟨pair.even, facility, card, pair.odd⟩

@[simp] theorem computedCredential_facility (facility : Facility) (card : Card) :
    (computedCredential facility card).facility = facility := rfl

@[simp] theorem computedCredential_card (facility : Facility) (card : Card) :
    (computedCredential facility card).card = card := rfl

theorem parityHeld_computedCredential (facility : Facility) (card : Card) :
    ParityHeld (computedCredential facility card) :=
  parityOf_computeParity _

/-- Every parser's Credential has computed parity: supplied bits that differ are replaced (R117, R131, R133). -/
theorem buildCredential_credential (tr : ParseTriple) :
    (buildCredential tr).1 = computedCredential tr.facility tr.card := by
  obtain ⟨facility, card, supplied⟩ := tr
  cases supplied with
  | none => rfl
  | some sp => simp [buildCredential, validateParity, computedCredential]

/-- The fields of a frame are its Credential's (R70, R73). -/
theorem frameOf_fields (k : Credential) :
    (frameOf k).extractLsb' 25 1 = k.evenParity ∧ (frameOf k).extractLsb' 17 8 = k.facility ∧
      (frameOf k).extractLsb' 1 16 = k.card ∧ (frameOf k).extractLsb' 0 1 = k.oddParity :=
  Credential.mk.inj (credentialOf_frameOf k)

/-- A successful response with a Credential shows it in `res`, by fields (R80). -/
theorem credentialAnswered_okResponse (k : Credential) (warn : BitVec 2) :
    CredentialAnswered (okResponse (frameOf k) warn) k warn := by
  obtain ⟨heven, hfacility, hcard, hodd⟩ := frameOf_fields k
  exact ⟨rfl, heven, hfacility, hcard, hodd, rfl, textsZero_okResponse _ _⟩

/-! ### The warnings of FROM_BIN26 -/

/-- The warnings for the end characters of a text beside a Credential (R133). -/
def endWarnings (t : Text) (k : Credential) : BitVec 2 :=
  mismatch (binVal (charAt t 0)) k.evenParity ++ mismatch (binVal (charAt t 25)) k.oddParity

/-- Each warning bit is the exclusive-or of its two bits (R117). -/
theorem endWarnings_eq_xor (t : Text) (k : Credential) :
    endWarnings t k =
      ((binVal (charAt t 0) ^^^ k.evenParity) ++ (binVal (charAt t 25) ^^^ k.oddParity) : BitVec 2) := by
  rw [endWarnings, mismatch_eq_xor, mismatch_eq_xor]

/-- The two bits of a pair. -/
theorem pair_bits (a b : Bit) :
    ((a ++ b : BitVec 2).getLsbD 1 = true ↔ a = 1) ∧ ((a ++ b : BitVec 2).getLsbD 0 = true ↔ b = 1) := by
  revert a b; decide

/-- A binary digit is the character of its bit (R82, R83). -/
theorem eq_binChar_iff {c : Code} {b : Bit} (h : isBin c = true) : c = binChar b ↔ binVal c = b := by
  revert b
  rcases isBin_iff.1 h with rfl | rfl <;> decide

/-- A flag of an end digit is raised when the digit is not the character of the computed bit (R133). -/
theorem mismatch_digit_iff {c : Code} {b : Bit} (h : isBin c = true) :
    mismatch (binVal c) b = 1 ↔ c ≠ binChar b := by
  rw [mismatch_eq_one_iff, Ne, Ne, eq_binChar_iff h]

/-! ### The response of each text operation -/

/-- FROM_BIN24 on its grammar (R132). -/
theorem respond_fromBin24 {t : Text} (h : Binary24 t) :
    respond .fromBin24 t =
      okResponse (frameOf (computedCredential (bitsVal 8 (slice t 0 8)) (bitsVal 16 (slice t 8 24)))) 0 := by
  rw [respond, parseBin24, if_pos (isBinary24_iff.2 h)]
  rfl

/-- FROM_BIN24 off its grammar (R190). -/
theorem respond_fromBin24_malformed {t : Text} (h : ¬ Binary24 t) :
    respond .fromBin24 t = failureResponse .invalidFormat := by
  rw [respond, parseBin24, if_neg (mt isBinary24_iff.1 h)]
  rfl

/-- FROM_BIN26 on its grammar (R133). -/
theorem respond_fromBin26 {t : Text} (h : Binary26 t) :
    let k := computedCredential (bitsVal 8 (slice t 1 9)) (bitsVal 16 (slice t 9 25))
    respond .fromBin26 t = okResponse (frameOf k) (endWarnings t k) := by
  rw [respond, parseBin26, if_pos (isBinary26_iff.2 h), parserResponse, buildCredential_credential]
  rfl

/-- FROM_BIN26 off its grammar (R190). -/
theorem respond_fromBin26_malformed {t : Text} (h : ¬ Binary26 t) :
    respond .fromBin26 t = failureResponse .invalidFormat := by
  rw [respond, parseBin26, if_neg (mt isBinary26_iff.1 h)]
  rfl

/-- FROM_HEX on its grammar (R135). -/
theorem respond_fromHex {t : Text} {a : Nat} (h : HexFrom t a) :
    let p := hexPayload (t.drop a)
    respond .fromHex t = okResponse (frameOf (computedCredential (p.extractLsb' 16 8) (p.extractLsb' 0 16))) 0 := by
  obtain ⟨hdigits, -⟩ := h.digits
  rw [respond, parseHex, hdigits]
  rfl

/-- FROM_DEC on its grammar, with both values in range (R136). -/
theorem respond_fromDec {t : Text} {k : Nat} (h : DecimalAt t k) (hfacility : facilityNumber t k ≤ 255)
    (hcard : cardNumber t k ≤ 65535) :
    respond .fromDec t =
      okResponse (frameOf (computedCredential (BitVec.ofNat 8 (facilityNumber t k))
        (BitVec.ofNat 16 (cardNumber t k)))) 0 := by
  obtain ⟨f, c, hgroups, hf, hc⟩ := h.groups
  have hfmax : ¬ facilityNumber t k > Config.facMax := Nat.not_lt.2 hfacility
  have hcmax : ¬ cardNumber t k > Config.cardMax := Nat.not_lt.2 hcard
  rw [respond, parseDec, hgroups]
  simp only [hf, hc, if_neg hfmax, if_neg hcmax]
  rfl

/-! ### The response to a text that spells a facility and a card -/

section

variable {facility : Facility} {card : Card} {t : Text}

/-- FROM_BIN24 on the payload's 24 digits (R132). -/
theorem respond_fromBin24_spelled (h : Binary24 t) (hspelled : BitsSpelled (facility ++ card : BitVec 24) t 0) :
    respond .fromBin24 t = okResponse (frameOf (computedCredential facility card)) 0 := by
  have ⟨hlen, hbin⟩ := h
  obtain ⟨hfacility, hcard⟩ := bitsVal_of_payloadSpelled (by omega) (fun i hi => hbin _ (by omega)) hspelled
  rw [respond_fromBin24 h, hfacility, hcard]

/-- FROM_BIN26 on the payload's 24 digits between any two end digits (R133). -/
theorem respond_fromBin26_spelled (h : Binary26 t) (hspelled : BitsSpelled (facility ++ card : BitVec 24) t 1) :
    respond .fromBin26 t =
      okResponse (frameOf (computedCredential facility card)) (endWarnings t (computedCredential facility card)) := by
  have ⟨hlen, hbin⟩ := h
  obtain ⟨hfacility, hcard⟩ := bitsVal_of_payloadSpelled (by omega) (fun i hi => hbin _ (by omega)) hspelled
  rw [respond_fromBin26 h, hfacility, hcard]

/-- FROM_HEX on the payload's six digits, bare or after a `0x` (R135). -/
theorem respond_fromHex_spelled {a : Nat} (h : HexFrom t a)
    (hspelled : NibblesSpelled (facility ++ card : BitVec 24) t a) :
    respond .fromHex t = okResponse (frameOf (computedCredential facility card)) 0 := by
  obtain ⟨-, hlen⟩ := h.digits
  rw [respond_fromHex h, (nibblesSpelled_hexPayload hlen).unique hspelled, extract_append_hi, extract_append_lo]

/-- FROM_DEC on a decimal spelling of the two values (R136, R137). -/
theorem respond_fromDec_spelled (h : DecimalSpells t facility card) :
    respond .fromDec t = okResponse (frameOf (computedCredential facility card)) 0 := by
  obtain ⟨k, hk, hfacility, hcard⟩ := h
  have hf := facility.isLt
  have hc := card.isLt
  rw [respond_fromDec hk (by omega) (by omega), hfacility, hcard, BitVec.ofNat_toNat, BitVec.ofNat_toNat,
    BitVec.setWidth_eq, BitVec.setWidth_eq]

end

/-! ### The texts that RENDER writes -/

theorem respond_render (k : Credential) (t : Text) : respond (.render k) t = renderResponse k := rfl

@[simp] theorem renderResponse_binTxt (k : Credential) : (renderResponse k).binTxt = binString (frameOf k) := rfl

@[simp] theorem renderResponse_hexTxt (k : Credential) :
    (renderResponse k).hexTxt = hexString (k.facility ++ k.card : BitVec 24) := rfl

/-- The two integers of RENDER (R173). -/
theorem renderResponse_integers (k : Credential) :
    (renderResponse k).res.extractLsb' 16 8 = k.facility ∧ (renderResponse k).res.extractLsb' 0 16 = k.card :=
  ⟨(extract_append_inside_lo 0#2 (k.facility ++ k.card) 16 8 (by decide)).trans (extract_append_hi k.facility k.card),
    (extract_append_inside_lo 0#2 (k.facility ++ k.card) 0 16 (by decide)).trans
      (extract_append_lo k.facility k.card)⟩

/-- A character of the binary string (R170). -/
theorem charAt_binString (f : Frame) {i : Nat} (hi : i < 26) :
    charAt (binString f).toList i = binChar (f.extractLsb' (25 - i) 1) := by
  simp [charAt, binString, hi]

/-- A character of the hexadecimal string (R171). -/
theorem charAt_hexString (p : Payload) {i : Nat} (hi : i < 6) :
    charAt (hexString p).toList i = hexChar (p.extractLsb' (20 - 4 * i) 4) := by
  simp [charAt, hexString, hi]

/-- An output character is `1` exactly for the bit 1 (R83). -/
theorem decide_binChar_eq_one (b : Bit) : decide (binChar b = 0x31) = b.getLsbD 0 := by
  revert b; decide

theorem isBin_binChar (b : Bit) : isBin (binChar b) = true := by
  revert b; decide

@[simp] theorem binVal_binChar (b : Bit) : binVal (binChar b) = b := by
  revert b; decide

theorem isHex_hexChar (h : BitVec 4) : isHex (hexChar h) = true := by
  revert h; decide

@[simp] theorem hexVal_hexChar (h : BitVec 4) : hexVal (hexChar h) = h := by
  revert h; decide

/-- The binary string is in the grammar of FROM_BIN26. -/
theorem binary26_binString (f : Frame) : Binary26 (binString f).toList :=
  ⟨Vector.length_toList, fun i hi => by rw [charAt_binString f hi]; exact isBin_binChar _⟩

/-- The binary string spells its frame. -/
theorem bitsSpelled_binString (f : Frame) : BitsSpelled f (binString f).toList 0 := by
  intro i hi
  rw [Nat.zero_add, charAt_binString f hi, decide_binChar_eq_one]
  simp

/-- The payload stands in the frame between the parity bits (R70, R71). -/
theorem frameOf_payload (k : Credential) : (frameOf k).extractLsb' 1 24 = (k.facility ++ k.card : BitVec 24) := by
  obtain ⟨-, hfacility, hcard, -⟩ := frameOf_fields k
  calc (frameOf k).extractLsb' 1 24
      = (frameOf k).extractLsb' 17 8 ++ (frameOf k).extractLsb' 1 16 :=
        (extract_join (m := 8) (n := 16) (frameOf k) 1).symm
    _ = k.facility ++ k.card := by rw [hfacility, hcard]

/-- RENDER's binary string spells facility and card between its end characters. -/
theorem bitsSpelled_binString_payload (k : Credential) :
    BitsSpelled (k.facility ++ k.card : BitVec 24) (binString (frameOf k)).toList 1 :=
  frameOf_payload k ▸ (bitsSpelled_binString (frameOf k)).field 1 24 (by decide)

/-- RENDER's end characters are the Credential's parity bits, so they give no warning beside it. -/
theorem endWarnings_binString (k : Credential) : endWarnings (binString (frameOf k)).toList k = 0 := by
  obtain ⟨heven, -, -, hodd⟩ := frameOf_fields k
  rw [endWarnings_eq_xor, charAt_binString _ (by decide), charAt_binString _ (by decide), binVal_binChar,
    binVal_binChar, heven, hodd, BitVec.xor_self, BitVec.xor_self]
  rfl

/-- The hexadecimal string is in the bare form of FROM_HEX. -/
theorem hexFrom_hexString (p : Payload) : HexFrom (hexString p).toList 0 :=
  .inl ⟨rfl, Vector.length_toList, fun i hi => by rw [charAt_hexString p hi]; exact isHex_hexChar _⟩

/-- The hexadecimal string spells its payload. -/
theorem nibblesSpelled_hexString (p : Payload) : NibblesSpelled p (hexString p).toList 0 := by
  intro i hi
  rw [Nat.zero_add, charAt_hexString p hi, hexVal_hexChar]

/-! ### The Credential of a success -/

/-- No failure has the status `OK` (R79). -/
theorem statusOf_ne_zero (f : Failure) : statusOf f ≠ 0 := by
  cases f with
  | invalidFormat => decide
  | outOfRange field => cases field <;> decide
  | illegalRequest => decide

/-- A parser's success holds a Credential with computed parity. -/
theorem parserResponse_res {outcome : Except Failure ParseTriple} (h : (parserResponse outcome).status = 0) :
    ∃ facility card, (parserResponse outcome).res = frameOf (computedCredential facility card) := by
  cases outcome with
  | ok tr => exact ⟨tr.facility, tr.card, congrArg frameOf (buildCredential_credential tr)⟩
  | error f => exact absurd h (statusOf_ne_zero f)

/-- A text operation's success holds a Credential with computed parity (R131, R133). -/
theorem respond_res_of_success {i : Instr} {t : Text} (hi : TakesText i) (h : (respond i t).status = 0) :
    ∃ facility card, (respond i t).res = frameOf (computedCredential facility card) := by
  rcases hi with rfl | rfl | rfl | rfl <;> exact parserResponse_res h

/-! ### The statements -/

/-- Settles O28. -/
theorem fromBin24Result : Obligations.FromBin24Result := by
  intro s req hs h
  have ⟨hlen, hbin⟩ := h
  refine ⟨_, _, exec_pending .fromBin24 hs, respond_fromBin24 h ▸ credentialAnswered_okResponse _ _,
    parityHeld_computedCredential _ _, ?_, ?_⟩
  · exact bitsSpelled_bitsVal (a := 0) (n := 8) (by omega) fun i hi => hbin _ (by omega)
  · exact bitsSpelled_bitsVal (a := 8) (n := 16) (by omega) fun i hi => hbin _ (by omega)

/-- Settles O29: each warning bit compares the end digit of its side with the computed bit. -/
theorem fromBin26Result : Obligations.FromBin26Result := by
  intro s req hs h
  have ⟨hlen, hbin⟩ := h
  refine ⟨_, _, _, exec_pending .fromBin26 hs, respond_fromBin26 h ▸ credentialAnswered_okResponse _ _,
    parityHeld_computedCredential _ _, ?_, ?_, ?_, ?_⟩
  · exact bitsSpelled_bitsVal (a := 1) (n := 8) (by omega) fun i hi => hbin _ (by omega)
  · exact bitsSpelled_bitsVal (a := 9) (n := 16) (by omega) fun i hi => hbin _ (by omega)
  · exact (pair_bits _ _).1.trans (mismatch_digit_iff (hbin 0 (by decide)))
  · exact (pair_bits _ _).2.trans (mismatch_digit_iff (hbin 25 (by decide)))

/-- Settles O30: the facility and the card joined again are the payload that the digits spell. -/
theorem fromHexResult : Obligations.FromHexResult := by
  intro s req a hs h
  obtain ⟨-, hlen⟩ := h.digits
  refine ⟨_, _, exec_pending .fromHex hs, respond_fromHex h ▸ credentialAnswered_okResponse _ _,
    parityHeld_computedCredential _ _, ?_⟩
  have hjoin := (extract_join (m := 8) (n := 16) (hexPayload ((requestText req).drop a)) 0).trans (extract_all _)
  exact hjoin.symm ▸ nibblesSpelled_hexPayload hlen

/-- Settles O31: values in range are not reduced by their widths. -/
theorem fromDecResult : Obligations.FromDecResult := by
  intro s req k hs h hfacility hcard
  refine ⟨_, _, exec_pending .fromDec hs, respond_fromDec h hfacility hcard ▸ credentialAnswered_okResponse _ _,
    parityHeld_computedCredential _ _, ?_, ?_⟩
  · exact (BitVec.toNat_ofNat _ _).trans (Nat.mod_eq_of_lt (by omega))
  · exact (BitVec.toNat_ofNat _ _).trans (Nat.mod_eq_of_lt (by omega))

/-- Settles O34: the word alone picks the grammar, and each grammar has its own length. -/
theorem binaryModesNeverMix : Obligations.BinaryModesNeverMix := by
  obtain ⟨hword24, hword26, -⟩ := writtenWordsDecode
  constructor
  · intro s req hs hr hword hlen
    have hformat : ¬ Binary24 (requestText req) := fun ⟨h, _⟩ => by omega
    refine ⟨_, step_answers hr hs, ?_⟩
    rw [answer_decoded (hword ▸ hword24), respond_fromBin24_malformed hformat]
    exact bareStatus_failureResponse .invalidFormat
  · intro s req hs hr hword hlen
    have hformat : ¬ Binary26 (requestText req) := fun ⟨h, _⟩ => by omega
    refine ⟨_, step_answers hr hs, ?_⟩
    rw [answer_decoded (hword ▸ hword26), respond_fromBin26_malformed hformat]
    exact bareStatus_failureResponse .invalidFormat

/-- Settles O35: both operations make one Credential of the middle digits. -/
theorem endBitsDecideWarnOnly : Obligations.EndBitsDecideWarnOnly := by
  intro t h
  simp only [respond_fromBin26 h, respond_fromBin24 h.middle, slice_slice t (show 1 + 8 ≤ 25 by decide),
    slice_slice t (show 1 + 24 ≤ 25 by decide)]
  obtain ⟨heven, -, -, hodd⟩ :=
    frameOf_fields (computedCredential (bitsVal 8 (slice t 1 9)) (bitsVal 16 (slice t 9 25)))
  refine ⟨rfl, rfl, rfl, rfl, rfl, ?_⟩
  rw [okResponse_warn, okResponse_res, heven, hodd, endWarnings_eq_xor]

/-- Settles O45: each form is answered with the Credential of the facility and the card it spells. -/
theorem formsAgree : Obligations.FormsAgree := by
  intro facility card dec hex bin full a hdec hhex hhexDigits hbin hbinDigits hfull hfullDigits
  rw [respond_fromDec_spelled hdec, respond_fromHex_spelled hhex hhexDigits,
    respond_fromBin24_spelled hbin hbinDigits, respond_fromBin26_spelled hfull hfullDigits]
  exact ⟨rfl, rfl, rfl, rfl, rfl, rfl, rfl⟩

/-- Settles O46: each text that RENDER writes spells the facility and the card of the Credential, whose parity bits are
the computed ones. -/
theorem formatterRoundTrip : Obligations.FormatterRoundTrip := by
  intro i t hi hok
  obtain ⟨facility, card, hres⟩ := respond_res_of_success hi hok
  obtain ⟨hfacility, hcard⟩ := renderResponse_integers (computedCredential facility card)
  simp only [hres, credentialOf_frameOf, respond_render]
  refine ⟨?_, ?_, fun u hu => ?_⟩
  · rw [renderResponse_binTxt, respond_fromBin26_spelled (binary26_binString _) (bitsSpelled_binString_payload
      (computedCredential facility card))]
    exact ⟨rfl, rfl, endWarnings_binString _⟩
  · rw [renderResponse_hexTxt, respond_fromHex_spelled (hexFrom_hexString _) (nibblesSpelled_hexString _)]
    exact ⟨rfl, rfl⟩
  · rw [hfacility, hcard] at hu
    rw [respond_fromDec_spelled hu]
    exact ⟨rfl, rfl⟩

end Sys2Proof.Machine
end

section
/-! PROOFS. The formatter (spec/42_credential_formatter.md): the characters and the integers of RENDER's response by
positions, and the statements of the family. -/

namespace Sys2Proof.Machine

/-! ### Fields that no parity bit reaches -/

/-- RENDER's `res` is made of the two integers (R172, R173). -/
theorem renderResponse_res (k : Credential) :
    (renderResponse k).res = (0#2 ++ (k.facility ++ k.card) : BitVec 26) := rfl

/-- The two top bits of RENDER's `res` are unused (R173). -/
theorem renderResponse_res_top (k : Credential) : (renderResponse k).res.extractLsb' 24 2 = 0 :=
  (congrArg _ (renderResponse_res k)).trans (extract_append_hi 0#2 (k.facility ++ k.card))

/-- The bits of a frame between its end bits are those of the payload (R70, R71). -/
theorem frameOf_payload_bit (k : Credential) {n : Nat} (h : n < 24) :
    (frameOf k).getLsbD (1 + n) = (k.facility ++ k.card : BitVec 24).getLsbD n := by
  rw [← frameOf_payload, BitVec.getLsbD_extractLsb', decide_eq_true h, Bool.true_and]

/-! ### The characters of the two texts -/

/-- The character of a bit that stands in a vector (R83). -/
theorem binChar_bit {w : Nat} (v : BitVec w) (n : Nat) :
    binChar (v.extractLsb' n 1) = if v.getLsbD n then 0x31 else 0x30 := by
  have hbit : v.extractLsb' n 1 = BitVec.ofBool (v.getLsbD n) := by
    ext i hi
    simp [Nat.lt_one_iff.1 hi]
  rw [hbit]
  cases v.getLsbD n <;> rfl

/-- A character of the binary string is the frame's bit at its place (R170). -/
theorem binString_getElem (f : Frame) {i : Nat} (h : i < 26) :
    (binString f)[i] = if f.getLsbD (25 - i) then 0x31 else 0x30 := by
  rw [binString, Vector.getElem_ofFn, binChar_bit]

/-- A character of the hexadecimal string is the digit of the payload's nibble at its place (R171). -/
theorem hexString_getElem (p : Payload) {i : Nat} (h : i < 6) :
    (hexString p)[i] = hexChar (p.extractLsb' (20 - 4 * i) 4) := by
  rw [hexString, Vector.getElem_ofFn]

/-- Between its end characters the binary string shows the payload (R70, R170). -/
theorem binString_frameOf_inside (k : Credential) {i : Nat} (h : i < 26) (hfirst : i ≠ 0) (hlast : i ≠ 25) :
    (binString (frameOf k))[i] = if (k.facility ++ k.card : BitVec 24).getLsbD (24 - i) then 0x31 else 0x30 := by
  have hplace : 25 - i = 1 + (24 - i) := by omega
  rw [binString_getElem _ h, hplace, frameOf_payload_bit k (by omega)]

/-! ### The statements -/

/-- Settles O36. -/
theorem renderResult : Obligations.RenderResult := by
  intro s req k hs
  obtain ⟨hfacility, hcard⟩ := renderResponse_integers k
  exact ⟨renderResponse k, exec_pending _ hs, rfl, rfl, fun _ hi => binString_getElem _ hi,
    fun _ hi => hexString_getElem _ hi, hfacility, hcard, renderResponse_res_top k⟩

/-- Settles O37: every other field is made of facility and card alone, and the frame's bits at positions 1 to 24 of
`bin_txt` are the payload's. -/
theorem renderParityShowsAtEndsOnly : Obligations.RenderParityShowsAtEndsOnly := by
  intro j k hfacility hcard
  simp only [respond_render, renderResponse_status, renderResponse_warn, renderResponse_res, renderResponse_hexTxt,
    renderResponse_binTxt, hfacility, hcard, true_and]
  intro i hi hfirst hlast
  rw [binString_frameOf_inside j hi hfirst hlast, binString_frameOf_inside k hi hfirst hlast, hfacility, hcard]

/-- Settles O47: FROM_DEC's `res` is the frame of the Credential of the two values, and RENDER shows its integers. -/
theorem decimalThenRenderRecovers : Obligations.DecimalThenRenderRecovers := by
  intro facility card t h
  simp only [respond_fromDec_spelled h, okResponse_res, credentialOf_frameOf, respond_render]
  exact ⟨rfl, renderResponse_integers (computedCredential facility card)⟩

end Sys2Proof.Machine
end

section
/-! PROOFS. The failures (spec/60_exceptions.md): the response of each text operation off its grammar and out of
range, what each status says of the instruction and its text, and the statements of the family. -/

namespace Sys2Proof.Machine

/-! ### Executed responses -/

/-- A meaning completes on a pending request only, with the response it forms from the text (R32). -/
theorem executes_cases {i : Instr} {s : State} {r : Response} (h : Executes i s r) :
    ∃ req, s.slot = .pending req ∧ r = respond i (requestText req) := by
  rw [Executes, exec_eq_execute] at h
  obtain ⟨req, hs, hr⟩ := execute_cases h
  exact ⟨req, hs, Slot.done.inj (withSlot_inj hr)⟩

/-- On a given pending request there is one response to execute to (R17). -/
theorem executes_pending {i : Instr} {s : State} {req : Request} {r : Response} (hs : s.slot = .pending req)
    (h : Executes i s r) : r = respond i (requestText req) := by
  obtain ⟨req', hs', rfl⟩ := executes_cases h
  rw [Slot.pending.inj (hs.symm.trans hs')]

/-! ### Texts off their grammar -/

/-- A text in which the check finds six digits is a Hex text, bare or prefixed (R86). -/
theorem hexFrom_of_hexDigits {t d : Text} (h : hexDigits t = some d) : ∃ a, HexFrom t a := by
  unfold hexDigits at h
  split at h
  case isTrue hbare =>
    rw [Bool.and_eq_true, beq_iff_eq, all_charAt] at hbare
    obtain ⟨hlen, hhex⟩ := hbare
    exact ⟨0, .inl ⟨rfl, hlen, fun i hi => hhex i (hlen.symm ▸ hi)⟩⟩
  case isFalse =>
    split at h
    case isTrue hprefixed =>
      simp only [Bool.and_eq_true, beq_iff_eq, all_charAt, hasHexPrefix, Bool.or_eq_true, List.length_drop,
        charAt_drop] at hprefixed
      obtain ⟨⟨hlen, hzero, hx⟩, hhex⟩ := hprefixed
      have hlen8 : t.length = 8 := hlen
      refine ⟨2, .inr ⟨rfl, hlen8, hzero, hx, fun i hlo hhi => ?_⟩⟩
      obtain ⟨j, rfl⟩ := Nat.exists_eq_add_of_le hlo
      exact hhex j (by omega)
    case isFalse => cases h

/-- FROM_HEX off its grammar (R190). -/
theorem respond_fromHex_malformed {t : Text} (h : ¬ ∃ a, HexFrom t a) :
    respond .fromHex t = failureResponse .invalidFormat := by
  cases hd : hexDigits t with
  | some d => exact absurd (hexFrom_of_hexDigits hd) h
  | none => rw [respond, parseHex, hd]; rfl

/-- FROM_DEC off its grammar, whatever its digits would be worth (R190, R138). -/
theorem respond_fromDec_malformed {t : Text} (h : ¬ ∃ k, DecimalAt t k) :
    respond .fromDec t = failureResponse .invalidFormat := by
  cases hg : decimalGroups t with
  | some groups =>
    obtain ⟨hgroups, -⟩ := decimalGrammar t
    obtain ⟨k, hk, -⟩ := (hgroups groups.1 groups.2).1 hg
    exact absurd ⟨k, hk⟩ h
  | none => rw [respond, parseDec, hg]; rfl

/-- Every operation off its grammar fails by format alone (R190). -/
theorem respond_malformed {i : Instr} {t : Text} (h : ¬ TextMatches i t) :
    respond i t = failureResponse .invalidFormat := by
  cases i with
  | fromBin24 => exact respond_fromBin24_malformed h
  | fromBin26 => exact respond_fromBin26_malformed h
  | fromHex => exact respond_fromHex_malformed h
  | fromDec => exact respond_fromDec_malformed h
  | render | computeParity | validateParity => exact absurd trivial h

/-- Only an operation that takes a text can miss its grammar. -/
theorem takesText_of_not_textMatches {i : Instr} {t : Text} (h : ¬ TextMatches i t) : TakesText i := by
  cases i with
  | fromBin24 => exact .inl rfl
  | fromBin26 => exact .inr (.inl rfl)
  | fromHex => exact .inr (.inr (.inl rfl))
  | fromDec => exact .inr (.inr (.inr rfl))
  | render | computeParity | validateParity => exact absurd trivial h

/-- The empty text is in no grammar (R84 to R87). -/
theorem not_textMatches_nil {i : Instr} (hi : TakesText i) : ¬ TextMatches i [] := by
  rcases hi with rfl | rfl | rfl | rfl
  · rintro ⟨hlen, -⟩
    cases hlen
  · rintro ⟨hlen, -⟩
    cases hlen
  · rintro ⟨a, ⟨-, hlen, -⟩ | ⟨-, hlen, -⟩⟩ <;> cases hlen
  · rintro ⟨k, -, hlen, -⟩
    cases hlen

/-! ### Decimal pairs out of range -/

/-- FROM_DEC of a facility above 255 (R191). -/
theorem respond_fromDec_facility {t : Text} {k : Nat} (h : DecimalAt t k) (hfacility : 255 < facilityNumber t k) :
    respond .fromDec t = failureResponse (.outOfRange .facility) := by
  obtain ⟨f, c, hgroups, hf, -⟩ := h.groups
  have hfmax : facilityNumber t k > Config.facMax := hfacility
  rw [respond, parseDec, hgroups]
  simp only [hf, if_pos hfmax]
  rfl

/-- FROM_DEC of a facility in range and a card above 65535 (R191, R136). -/
theorem respond_fromDec_card {t : Text} {k : Nat} (h : DecimalAt t k) (hfacility : facilityNumber t k ≤ 255)
    (hcard : 65535 < cardNumber t k) : respond .fromDec t = failureResponse (.outOfRange .card) := by
  obtain ⟨f, c, hgroups, hf, hc⟩ := h.groups
  have hfmax : ¬ facilityNumber t k > Config.facMax := Nat.not_lt.2 hfacility
  have hcmax : cardNumber t k > Config.cardMax := hcard
  rw [respond, parseDec, hgroups]
  simp only [hf, hc, if_neg hfmax, if_pos hcmax]
  rfl

/-! ### What a status says of the instruction and its text -/

/-- The causes of each status an operation can answer (R190, R191, R193). Status 4 has none: it belongs to no
operation (R192). -/
inductive StatusCause (i : Instr) (t : Text) : BitVec 3 → Prop where
  | ok (h : TextMatches i t) : StatusCause i t 0
  | malformed (hi : TakesText i) (h : ¬ TextMatches i t) : StatusCause i t 1
  | facility (k : Nat) (hi : i = .fromDec) (h : DecimalAt t k) (hfacility : 255 < facilityNumber t k) :
      StatusCause i t 2
  | card (k : Nat) (hi : i = .fromDec) (h : DecimalAt t k) (hfacility : facilityNumber t k ≤ 255)
      (hcard : 65535 < cardNumber t k) : StatusCause i t 3

/-- The status of FROM_DEC on a decimal pair follows the two exact values, the facility first (R136). -/
theorem fromDec_statusCause {t : Text} {k : Nat} (h : DecimalAt t k) :
    StatusCause .fromDec t (respond .fromDec t).status := by
  by_cases hfacility : facilityNumber t k ≤ 255
  · by_cases hcard : cardNumber t k ≤ 65535
    · rw [respond_fromDec h hfacility hcard]
      exact .ok ⟨k, h⟩
    · rw [respond_fromDec_card h hfacility (Nat.lt_of_not_le hcard)]
      exact .card k rfl h hfacility (Nat.lt_of_not_le hcard)
  · rw [respond_fromDec_facility h (Nat.lt_of_not_le hfacility)]
    exact .facility k rfl h (Nat.lt_of_not_le hfacility)

/-- Every status an operation answers has its cause. -/
theorem respond_statusCause (i : Instr) (t : Text) : StatusCause i t (respond i t).status := by
  by_cases h : TextMatches i t
  case neg =>
    rw [respond_malformed h]
    exact .malformed (takesText_of_not_textMatches h) h
  case pos =>
    cases i with
    | fromBin24 => rw [respond_fromBin24 h]; exact .ok h
    | fromBin26 => rw [respond_fromBin26 h]; exact .ok h
    | fromHex => obtain ⟨a, ha⟩ := h; rw [respond_fromHex ha]; exact .ok ⟨a, ha⟩
    | fromDec => obtain ⟨k, hk⟩ := h; exact fromDec_statusCause hk
    | render | computeParity | validateParity => exact .ok trivial

section
variable {i : Instr} {t : Text} {status : BitVec 3}

/-- Status 1 comes from a text off its grammar only (R190). -/
theorem StatusCause.of_one (h : StatusCause i t status) (hstatus : status = 1) :
    TakesText i ∧ ¬ TextMatches i t := by
  cases h with
  | malformed hi h => exact ⟨hi, h⟩
  | ok | facility | card => exact absurd hstatus (by decide)

/-- Status 2 comes from a decimal pair whose facility exceeds 255 only (R191). -/
theorem StatusCause.of_two (h : StatusCause i t status) (hstatus : status = 2) :
    i = .fromDec ∧ ∃ k, DecimalAt t k ∧ 255 < facilityNumber t k := by
  cases h with
  | facility k hi h hfacility => exact ⟨hi, k, h, hfacility⟩
  | ok | malformed | card => exact absurd hstatus (by decide)

/-- Status 3 comes from a decimal pair whose card alone exceeds its range only (R191, R136). -/
theorem StatusCause.of_three (h : StatusCause i t status) (hstatus : status = 3) :
    i = .fromDec ∧ ∃ k, DecimalAt t k ∧ facilityNumber t k ≤ 255 ∧ 65535 < cardNumber t k := by
  cases h with
  | card k hi h hfacility hcard => exact ⟨hi, k, h, hfacility, hcard⟩
  | ok | malformed | facility => exact absurd hstatus (by decide)

end

/-- Every text operation succeeds on some text (R193). -/
theorem exists_success {i : Instr} (hi : TakesText i) : ∃ t, (respond i t).status = 0 := by
  rcases hi with rfl | rfl | rfl | rfl
  · exact ⟨List.replicate 24 0x30, by decide⟩
  · exact ⟨List.replicate 26 0x30, by decide⟩
  · exact ⟨nameCodes "0xFFFFFF", by decide⟩
  · exact ⟨nameCodes "255,65535", by decide⟩

/-! ### The statements -/

/-- Settles O32. -/
theorem malformedTextIsInvalidFormat : Obligations.MalformedTextIsInvalidFormat := by
  constructor
  · intro i s req hs h
    exact ⟨_, exec_pending i hs, respond_malformed h ▸ bareStatus_failureResponse .invalidFormat⟩
  · intro i s req r hs hexec hstatus
    obtain rfl := executes_pending hs hexec
    exact (respond_statusCause i _).of_one hstatus

/-- Settles O33: the response on each side of the two bounds, and the cause of each status. -/
theorem outOfRangeByExactValue : Obligations.OutOfRangeByExactValue := by
  refine ⟨fun s req k hs h => ⟨fun hfacility => ?_, fun hfacility hcard => ?_⟩, fun s req r hs hexec => ?_,
    fun i s r hexec hstatus => ?_⟩
  · exact ⟨_, exec_pending .fromDec hs,
      respond_fromDec_facility h hfacility ▸ bareStatus_failureResponse (.outOfRange .facility)⟩
  · exact ⟨_, exec_pending .fromDec hs,
      respond_fromDec_card h hfacility hcard ▸ bareStatus_failureResponse (.outOfRange .card)⟩
  · obtain rfl := executes_pending hs hexec
    have hcause := respond_statusCause .fromDec (requestText req)
    exact ⟨fun hstatus => (hcause.of_two hstatus).2, fun hstatus => (hcause.of_three hstatus).2⟩
  · obtain ⟨req, -, rfl⟩ := executes_cases hexec
    have hcause := respond_statusCause i (requestText req)
    exact hstatus.elim (fun h => (hcause.of_two h).1) (fun h => (hcause.of_three h).1)

/-- Settles O39: the upper bound reads each status off its cause; the empty text fails every parser, and the two
out-of-range entries occur one above each bound. -/
theorem statusTable : Obligations.StatusTable := by
  refine ⟨fun i s r hexec => ?_, fun i hi => ?_, nameCodes "256,0", nameCodes "255,65536", by decide, by decide⟩
  · obtain ⟨req, -, rfl⟩ := executes_cases hexec
    have hcause := respond_statusCause i (requestText req)
    generalize (respond i (requestText req)).status = status at hcause ⊢
    cases hcause with
    | ok => exact .inl rfl
    | malformed hi => exact .inr (.inl ⟨rfl, hi⟩)
    | facility _ hi => exact .inr (.inr (.inl ⟨rfl, hi⟩))
    | card _ hi => exact .inr (.inr (.inr ⟨rfl, hi⟩))
  · obtain ⟨t, ht⟩ := exists_success hi
    exact ⟨t, [], ht, congrArg Response.status (respond_malformed (not_textMatches_nil hi))⟩

end Sys2Proof.Machine
end

section
/-! PROOFS. Reset and hazards (spec/70_reset_and_hazards.md): what a reset step does at the ports and to a
transaction in the slot, and that reset and the three steps are all that changes the state. -/

namespace Sys2Proof.Machine

/-! ### The ports while reset is asserted -/

/-- While reset is asserted the block takes no request (R221). -/
theorem reqReady_rst {s : State} (hr : s.inp.rst = true) : reqReady s = false := by
  simp [reqReady, hr]

/-- While reset is asserted the block shows no response (R221). -/
theorem respValid_rst {s : State} (hr : s.inp.rst = true) : respValid s = false :=
  Bool.eq_false_iff.2 fun hvalid => by simp [(respValid_iff.1 hvalid).1] at hr

/-- Nothing is accepted at a reset step (R221). -/
theorem acceptedNow_rst {s : State} (hr : s.inp.rst = true) : acceptedNow s = none := by
  simp [acceptedNow, reqReady_rst hr]

/-- Nothing is delivered at a reset step (R221). -/
theorem deliveredNow_rst {s : State} (hr : s.inp.rst = true) : deliveredNow s = none := by
  simp [deliveredNow, respValid_rst hr]

/-! ### Runs that begin with a reset -/

/-- A run that begins with a reset is the run of the rest from the empty slot: the state before it does not enter. -/
theorem runClient_resets (s : State) {p : Inputs} (ps : List Inputs) (hr : p.rst = true) :
    runClient s (p :: ps) = runClient ⟨.empty, p⟩ ps := by
  have ha : acceptedNow (s.driven p) = none := acceptedNow_rst hr
  have hd : deliveredNow (s.driven p) = none := deliveredNow_rst hr
  rw [runClient_cons ps (step_rst hr), ha, hd]
  rfl

/-! ### The statements -/

/-- Settles O16: of the six kinds of step two wait, and the others are the four ways in which the slot changes. -/
theorem slotChangesOnlyBySteps : Obligations.SlotChangesOnlyBySteps := by
  intro s t hstep
  cases step_cases hstep with
  | reset hr => exact ⟨withSlot_inp s _, .inr (.inl ⟨hr, withSlot_slot s _⟩)⟩
  | idle _ _ _ => exact ⟨rfl, .inl rfl⟩
  | accept hr hs hv _ => exact ⟨withSlot_inp s _, .inr (.inr (.inl ⟨hr, hv, hs, withSlot_slot s _⟩))⟩
  | execute req hr hs =>
    exact ⟨withSlot_inp s _, .inr (.inr (.inr (.inl ⟨hr, req, hs, withSlot_slot s _⟩)))⟩
  | hold _ _ _ _ => exact ⟨rfl, .inl rfl⟩
  | deliver resp hr hs hready =>
    exact ⟨withSlot_inp s _, .inr (.inr (.inr (.inr ⟨hr, hready, ⟨resp, hs⟩, withSlot_slot s _⟩)))⟩

/-- Settles O9. -/
theorem resetEmptiesSlot : Obligations.ResetEmptiesSlot :=
  fun _ hr => ⟨step_rst hr, reqReady_rst hr, respValid_rst hr⟩

/-- Settles O43: from the reset on, both runs are the run from the empty slot. -/
theorem resetDropsTransaction : Obligations.ResetDropsTransaction := by
  intro s u p ps hr
  rw [runClient_resets s ps hr, runClient_resets u ps hr, runClient_resets s [] hr]
  exact ⟨rfl, rfl, rfl, rfl⟩

end Sys2Proof.Machine
end
